-- ==== Sys2Proof/Word.lean ====
section
/-! DEFINITION. The codec's word types (00_scope.md R7, R8, R9) and the named values its operands take. -/

namespace Sys2Proof

/-- A 43-bit ProtocolWord (30_encoding.md R60). -/
abbrev ProtocolWord := BitVec 43

/-- A duration in microseconds, DW = 32 bits unsigned (00_scope.md R6, 20_memory.md R42). -/
abbrev Dur := BitVec 32

/-- A 3-bit mode code of the word, and the width of MB (30_encoding.md R63). -/
abbrev ModeCode := BitVec 3

/-- One (mark, space) pair (00_scope.md R9). -/
structure Pulse where
  mark : Dur
  space : Dur
  deriving DecidableEq, Repr

/-- The ClimateState mode on the way in (00_scope.md R9, 30_encoding.md R80). The two port values that name no mode
are kept apart, because TRANSMIT publishes the host's own state unchanged (40_encoder.md R110). -/
inductive Mode
  | off | cool | heat | auto | dry | fanOnly | unrecognized6 | unrecognized7
  deriving DecidableEq, Repr

/-- The ClimateState fan speed on the way in (00_scope.md R9, 30_encoding.md R81). -/
inductive Fan
  | auto | low | medium | middle | high | unrecognized5 | unrecognized6 | unrecognized7
  deriving DecidableEq, Repr

/-- The five timing registers, in the order of 10_state.md R23. -/
inductive TpReg
  | hm | hs | bm | os | zs
  deriving DecidableEq, Repr

/-- Which side of the wire a symbol is on (30_encoding.md R69): emitted by the Encoder, or tried by the Decoder. -/
inductive Dir
  | tx | rx
  deriving DecidableEq, Repr

/-- The four wire symbols of 30_encoding.md R69. -/
inductive Symbol
  | header | bit1 | bit0 | trail
  deriving DecidableEq, Repr

end Sys2Proof
end

