-- ==== Sys2Proof/Config.lean ====
section
/-! DEFINITION. The constants the spec fixes, the parameters it leaves open, and the free values (00_scope.md R6). -/

namespace Sys2Proof

/-- SIG (00_scope.md R6, 30_encoding.md R64). -/
def Config.sig : ProtocolWord := 0x25150000000

/-- SIGMASK, as it acts on 43 bits (30_encoding.md R64, 90_conflicts.md C2). -/
def Config.sigMask : ProtocolWord := 0x7FFF0000000

/-- The signature field, bits 42:28 (30_encoding.md R60). -/
def Config.sigField : BitVec 15 := 0x2515

/-- TEMP_MIN and TEMP_MAX in degrees Celsius (00_scope.md R6). -/
def Config.tempMin : Int := 16
def Config.tempMax : Int := 30

/-- WORD_BITS (00_scope.md R6). -/
def Config.wordBits : Nat := 43

/-- ROUND_TIE (00_scope.md R6, 92 D11): what "round to nearest" does at exactly one half. -/
inductive RoundTie
  | halfUp | halfEven
  deriving DecidableEq, Repr

/-- The receiver's tolerance policy `Match` (20_memory.md R48, 92 D14), as plain data. `unknown` is the OPEN parameter:
a relation of which nothing is known. The other three are the relations the test vectors name (95_test_vectors.md: equality;
V48, an absolute difference; V49, a difference scaled by the expected value). -/
inductive Tolerance
  | unknown
  | exact
  | absolute (d : Dur)
  | scaled (k : Nat)
  deriving DecidableEq, Repr

/-- What the use of a timing register not written since reset does: `refused`, as the spec asks of a model (70_reset_and_hazards.md
R203, 93 U1); or `unspecified`, the register read as a value of which nothing is known (42_timing_profile.md R171), as the hardware
goes on. The choice between the two is the model's own parameter (DESIGN CHOICE, safe: notes/assumptions/17.md). -/
inductive UnwrittenUse
  | refused | unspecified
  deriving DecidableEq, Repr

/-- The parameters a model takes in its configuration record (00_scope.md R6). No step changes it. DESIGN CHOICE, unsafe: CARRIER_HZ
is a natural number of hertz; the spec gives it neither a type nor a width (notes/assumptions/4.md). -/
structure Cfg where
  tie : RoundTie
  tolerance : Tolerance
  carrierHz : Nat
  unwritten : UnwrittenUse
  deriving DecidableEq, Repr

/-- FREE VALUE: the relation `Match` where nothing is known of it (92 D14, notes/assumptions/4.md). -/
opaque Config.unknownMatch : Dur → Dur → Bool

/-- FREE VALUE: CARRIER_HZ, a natural number of hertz (92 D13, notes/assumptions/4.md). -/
opaque Config.carrierHz : Nat

/-- FREE VALUE: what a timing register not written since reset reads as where its use is not refused, by the number of the draw
(10_state.md R31, 42_timing_profile.md R171, notes/assumptions/17.md). -/
opaque Config.freeDur : Nat → TpReg → Dur

/-- FREE VALUE: the mode, fan and temperature bits of OUT after the n-th failed DECODE (93 U13, notes/assumptions/7.md). -/
opaque Config.freeOut : Nat → BitVec 11

/-- The parameters as the spec gives them: ties round half up by default (92 D11), the relation and the carrier are open, and the
use of a register not written since reset is refused (70_reset_and_hazards.md R203, 93 U1). -/
def Config.default : Cfg :=
  { tie := .halfUp, tolerance := .unknown, carrierHz := Config.carrierHz, unwritten := .refused }

end Sys2Proof
end

