-- ==== Sys2Proof/Syntax.lean ====
section
/-! DEFINITION. The instructions: one constructor per row of spec/opcode_table.json. -/

namespace Sys2Proof

/-- An operation of the codec (00_scope.md R2), in the table's order. -/
inductive Instr
  /-- NOP (42_timing_profile.md R172). -/
  | nop
  /-- WRTP tp_idx, tp_wdata (R170). -/
  | wrtp (idx : BitVec 3) (val : Dur)
  /-- RDTP tp_idx (R171). -/
  | rdtp (idx : BitVec 3)
  /-- TRANSMIT mode_in, fan_in, temp_in; the temperature is signed Q8.8 (40_encoder.md R109, 30_encoding.md R82). -/
  | transmit (mode : Mode) (fan : Fan) (temp : BitVec 16)
  /-- DECODE (41_decoder.md R130). -/
  | decode
  /-- The reserved command codes (30_encoding.md R79). -/
  | reservedCmd5
  | reservedCmd6
  | reservedCmd7
  /-- ENCODE mode, fan, tval, mb (40_encoder.md R100). -/
  | encode (mode : Mode) (fan : Fan) (temp : BitVec 16) (mb : ModeCode)
  /-- EMIT word (40_encoder.md R107). -/
  | emit (word : ProtocolWord)
  /-- VALIDATE w (41_decoder.md R137). -/
  | validate (word : ProtocolWord)
  /-- UNPACK w (41_decoder.md R138). -/
  | unpack (word : ProtocolWord)
  /-- The word as the Encoder writes it: offset, fan code, command flag, mode code (30_encoding.md R60). -/
  | protocolWord (toff fan : BitVec 4) (flag : BitVec 1) (mode : ModeCode)
  /-- The words the Decoder reads as valid: `z` is bits 27:12, unchecked (30_encoding.md R71, R74). -/
  | frameOnAuto (z : BitVec 16) (toff fan : BitVec 4)
  | frameOnCool (z : BitVec 16) (toff fan : BitVec 4)
  | frameOnDry (z : BitVec 16) (toff fan : BitVec 4)
  | frameOnFan (z : BitVec 16) (toff fan : BitVec 4)
  | frameOnHeat (z : BitVec 16) (toff fan : BitVec 4)
  | frameOnRsv5 (z : BitVec 16) (toff fan : BitVec 4)
  | frameOnRsv6 (z : BitVec 16) (toff fan : BitVec 4)
  | frameOnRsv7 (z : BitVec 16) (toff fan : BitVec 4)
  | frameOff (z : BitVec 16) (toff fan : BitVec 4) (mode : ModeCode)
  /-- Every other word: bits 42:28 and bits 27:0 (30_encoding.md R71). -/
  | frameForeign (sig : BitVec 15) (low : BitVec 28)
  /-- The wire symbols (30_encoding.md R69). -/
  | symHeader (dir : Dir)
  | symBit1 (dir : Dir)
  | symBit0 (dir : Dir)
  | symTrail (dir : Dir)
  deriving DecidableEq, Repr

end Sys2Proof
end

