-- ==== Sys2Proof/WellFormed.lean ====
section
/-! DEFINITION. The checks an instruction must pass: a timing index that names a register, and a foreign word that is foreign. -/

namespace Sys2Proof

/-- Well-formed: indices 5, 6 and 7 name no register (20_memory.md R41), and FRAME_FOREIGN is the complement of the
other frame classes (30_encoding.md R71). Every other operand value has a meaning. -/
def Instr.wf : Instr → Bool
  | .wrtp idx _ => decide (idx.toNat ≤ 4)
  | .rdtp idx => decide (idx.toNat ≤ 4)
  | .frameForeign sig _ => decide (sig ≠ Config.sigField)
  | .nop | .transmit _ _ _ | .decode | .reservedCmd5 | .reservedCmd6 | .reservedCmd7 => true
  | .encode _ _ _ _ | .emit _ | .validate _ | .unpack _ | .protocolWord _ _ _ _ => true
  | .frameOnAuto _ _ _ | .frameOnCool _ _ _ | .frameOnDry _ _ _ | .frameOnFan _ _ _ => true
  | .frameOnHeat _ _ _ | .frameOnRsv5 _ _ _ | .frameOnRsv6 _ _ _ | .frameOnRsv7 _ _ _ => true
  | .frameOff _ _ _ _ | .symHeader _ | .symBit1 _ | .symBit0 _ | .symTrail _ => true

end Sys2Proof
end

