-- ==== Sys2Proof/Decode.lean ====
section
/-! DEFINITION. The encodings of 30_encoding.md: what each operation is written as, the decoder, and the encoder after it. -/

namespace Sys2Proof

/-- The input ports of a host command (30_encoding.md R77). -/
structure Ports where
  cmd : BitVec 3
  tpIdx : BitVec 3 := 0
  tpWdata : Dur := 0
  modeIn : BitVec 3 := 0
  fanIn : BitVec 3 := 0
  tempIn : BitVec 16 := 0
  deriving DecidableEq, Repr

/-- A sub-operation with its arguments: it has no command code (30_encoding.md R78). -/
inductive SubOp
  | encode (mode : Mode) (fan : Fan) (temp : BitVec 16) (mb : ModeCode)
  | emit (word : ProtocolWord)
  | validate (word : ProtocolWord)
  | unpack (word : ProtocolWord)
  deriving DecidableEq, Repr

/-- An operation as it is written, one constructor per format of the opcode table: CMD3, WORD43 as the Decoder reads it,
WORD43 as the Encoder writes it, SUBOP, PULSE. -/
inductive Code
  | command (p : Ports)
  | frame (w : ProtocolWord)
  | encoderWord (w : ProtocolWord)
  | subop (o : SubOp)
  | symbol (dir : Dir) (y : Symbol)
  deriving DecidableEq, Repr

/-- Why bits are no operation. -/
inductive DecodeReject
  /-- A word offered as the Encoder's whose bits 42:12 are not those of SIG (40_encoder.md R101). -/
  | notEncoderWord
  /-- A command code of more than the three bits of `cmd` (30_encoding.md R78). -/
  | notACommandCode
  /-- A word of more than 43 bits (30_encoding.md R60). -/
  | wordTooLong
  /-- A length that is no format of the opcode table. -/
  | noSuchFormat
  deriving DecidableEq, Repr

/-- `mode_in` (30_encoding.md R80). -/
def modeOfPort (p : BitVec 3) : Mode :=
  match p.toNat with
  | 0 => .off | 1 => .cool | 2 => .heat | 3 => .auto | 4 => .dry | 5 => .fanOnly
  | 6 => .unrecognized6 | _ => .unrecognized7

/-- The number of a mode on `mode_in` and `out_mode` (30_encoding.md R80, R83). -/
def portOfMode : Mode → BitVec 3
  | .off => 0 | .cool => 1 | .heat => 2 | .auto => 3 | .dry => 4 | .fanOnly => 5
  | .unrecognized6 => 6 | .unrecognized7 => 7

/-- `fan_in` (30_encoding.md R81). -/
def fanOfPort (p : BitVec 3) : Fan :=
  match p.toNat with
  | 0 => .auto | 1 => .low | 2 => .medium | 3 => .middle | 4 => .high
  | 5 => .unrecognized5 | 6 => .unrecognized6 | _ => .unrecognized7

/-- The number of a fan speed on `fan_in` and `out_fan` (30_encoding.md R81, R83). -/
def portOfFan : Fan → BitVec 3
  | .auto => 0 | .low => 1 | .medium => 2 | .middle => 3 | .high => 4
  | .unrecognized5 => 5 | .unrecognized6 => 6 | .unrecognized7 => 7

/-- The fields of a word (30_encoding.md R60). -/
def sigOf (w : ProtocolWord) : BitVec 15 := w.extractLsb' 28 15
def uncheckedOf (w : ProtocolWord) : BitVec 16 := w.extractLsb' 12 16
def toffOf (w : ProtocolWord) : BitVec 4 := w.extractLsb' 8 4
def fanCodeOf (w : ProtocolWord) : BitVec 4 := w.extractLsb' 4 4
def flagOf (w : ProtocolWord) : BitVec 1 := w.extractLsb' 3 1
def modeCodeOf (w : ProtocolWord) : ModeCode := w.extractLsb' 0 3

/-- The word with these fields (30_encoding.md R60). -/
def wordOfFields (sig : BitVec 15) (z : BitVec 16) (toff fan : BitVec 4) (flag : BitVec 1) (mode : ModeCode) :
    ProtocolWord :=
  (((((sig ++ z) ++ toff) ++ fan) ++ flag) ++ mode).cast (by decide)

/-- A host command from its ports (30_encoding.md R78). Unused operand ports are not looked at. -/
def decodeCommand (p : Ports) : Instr :=
  match p.cmd.toNat with
  | 0 => .nop
  | 1 => .wrtp p.tpIdx p.tpWdata
  | 2 => .rdtp p.tpIdx
  | 3 => .transmit (modeOfPort p.modeIn) (fanOfPort p.fanIn) p.tempIn
  | 4 => .decode
  | 5 => .reservedCmd5
  | 6 => .reservedCmd6
  | _ => .reservedCmd7

/-- The frame class of a word, as the Decoder reads it (30_encoding.md R71). -/
def decodeFrame (w : ProtocolWord) : Instr :=
  if sigOf w ≠ Config.sigField then .frameForeign (sigOf w) (w.extractLsb' 0 28)
  else if flagOf w = 0 then .frameOff (uncheckedOf w) (toffOf w) (fanCodeOf w) (modeCodeOf w)
  else match (modeCodeOf w).toNat with
    | 0 => .frameOnAuto (uncheckedOf w) (toffOf w) (fanCodeOf w)
    | 1 => .frameOnCool (uncheckedOf w) (toffOf w) (fanCodeOf w)
    | 2 => .frameOnDry (uncheckedOf w) (toffOf w) (fanCodeOf w)
    | 3 => .frameOnFan (uncheckedOf w) (toffOf w) (fanCodeOf w)
    | 4 => .frameOnHeat (uncheckedOf w) (toffOf w) (fanCodeOf w)
    | 5 => .frameOnRsv5 (uncheckedOf w) (toffOf w) (fanCodeOf w)
    | 6 => .frameOnRsv6 (uncheckedOf w) (toffOf w) (fanCodeOf w)
    | _ => .frameOnRsv7 (uncheckedOf w) (toffOf w) (fanCodeOf w)

/-- The word as the Encoder writes it: bits 42:12 are those of SIG (30_encoding.md R61). -/
def decodeEncoderWord (w : ProtocolWord) : Except DecodeReject Instr :=
  if sigOf w = Config.sigField ∧ uncheckedOf w = 0 then
    .ok (.protocolWord (toffOf w) (fanCodeOf w) (flagOf w) (modeCodeOf w))
  else .error .notEncoderWord

/-- A sub-operation, by its name and arguments (30_encoding.md R78). -/
def decodeSubOp : SubOp → Instr
  | .encode m f t mb => .encode m f t mb
  | .emit w => .emit w
  | .validate w => .validate w
  | .unpack w => .unpack w

/-- A wire symbol (30_encoding.md R69). -/
def decodeSymbol (d : Dir) : Symbol → Instr
  | .header => .symHeader d
  | .bit1 => .symBit1 d
  | .bit0 => .symBit0 d
  | .trail => .symTrail d

/-- The decoder: total, rejecting by name. -/
def decode : Code → Except DecodeReject Instr
  | .command p => .ok (decodeCommand p)
  | .frame w => .ok (decodeFrame w)
  | .encoderWord w => decodeEncoderWord w
  | .subop o => .ok (decodeSubOp o)
  | .symbol d y => .ok (decodeSymbol d y)

/-- A word of a frame that carries the signature. -/
def codeOfFrame (z : BitVec 16) (toff fan : BitVec 4) (flag : BitVec 1) (mode : ModeCode) : Code :=
  .frame (wordOfFields Config.sigField z toff fan flag mode)

/-- The encoder: what an instruction is written as, unused ports 0 (30_encoding.md R60, R69, R71, R78, R84). -/
def encode : Instr → Code
  | .nop => .command { cmd := 0 }
  | .wrtp i v => .command { cmd := 1, tpIdx := i, tpWdata := v }
  | .rdtp i => .command { cmd := 2, tpIdx := i }
  | .transmit m f t => .command { cmd := 3, modeIn := portOfMode m, fanIn := portOfFan f, tempIn := t }
  | .decode => .command { cmd := 4 }
  | .reservedCmd5 => .command { cmd := 5 }
  | .reservedCmd6 => .command { cmd := 6 }
  | .reservedCmd7 => .command { cmd := 7 }
  | .encode m f t mb => .subop (.encode m f t mb)
  | .emit w => .subop (.emit w)
  | .validate w => .subop (.validate w)
  | .unpack w => .subop (.unpack w)
  | .protocolWord t f c m => .encoderWord (wordOfFields Config.sigField 0 t f c m)
  | .frameOnAuto z t f => codeOfFrame z t f 1 0
  | .frameOnCool z t f => codeOfFrame z t f 1 1
  | .frameOnDry z t f => codeOfFrame z t f 1 2
  | .frameOnFan z t f => codeOfFrame z t f 1 3
  | .frameOnHeat z t f => codeOfFrame z t f 1 4
  | .frameOnRsv5 z t f => codeOfFrame z t f 1 5
  | .frameOnRsv6 z t f => codeOfFrame z t f 1 6
  | .frameOnRsv7 z t f => codeOfFrame z t f 1 7
  | .frameOff z t f m => codeOfFrame z t f 0 m
  | .frameForeign sig low => .frame (sig ++ low)
  | .symHeader d => .symbol d .header
  | .symBit1 d => .symbol d .bit1
  | .symBit0 d => .symbol d .bit0
  | .symTrail d => .symbol d .trail

/-- A number of the opcode table as an operation is written: up to 8 bits hold the command code `cmd[2:0]`, with every
operand port 0; up to 48 bits hold a 43-bit word, read as the Decoder reads it (30_encoding.md R71, R78).
DESIGN CHOICE, safe: notes/assumptions/14.md. -/
def tableCode (nbits w : Nat) : Except DecodeReject Code :=
  if nbits = 0 ∨ 48 < nbits then .error .noSuchFormat
  else if nbits ≤ 8 then
    if w < 8 then .ok (.command { cmd := BitVec.ofNat 3 w }) else .error .notACommandCode
  else if w < 2 ^ 43 then .ok (.frame (BitVec.ofNat 43 w)) else .error .wordTooLong

/-- The instruction the decoder reads from a number of the opcode table. -/
def decodeTableWord (nbits w : Nat) : Option Instr :=
  match tableCode nbits w with
  | .ok c => (decode c).toOption
  | .error _ => none

/-- The formats of the opcode table. -/
inductive TableFormat
  | cmd3 | subop | word43 | pulse
  deriving DecidableEq, Repr

/-- What the opcode table says of a row: its format, and its `match` and `mask` (none where the row has no match). -/
structure TableRow where
  format : TableFormat
  fixed : Option Nat
  mask : Nat
  deriving DecidableEq, Repr

/-- The row of spec/opcode_table.json an instruction belongs to. -/
def tableRow : Instr → TableRow
  | .nop => ⟨.cmd3, some 0, 7⟩
  | .wrtp _ _ => ⟨.cmd3, some 1, 7⟩
  | .rdtp _ => ⟨.cmd3, some 2, 7⟩
  | .transmit _ _ _ => ⟨.cmd3, some 3, 7⟩
  | .decode => ⟨.cmd3, some 4, 7⟩
  | .reservedCmd5 => ⟨.cmd3, some 5, 7⟩
  | .reservedCmd6 => ⟨.cmd3, some 6, 7⟩
  | .reservedCmd7 => ⟨.cmd3, some 7, 7⟩
  | .encode _ _ _ _ | .emit _ | .validate _ | .unpack _ => ⟨.subop, none, 0⟩
  | .protocolWord _ _ _ _ => ⟨.word43, some 0x25150000000, 0x7FFFFFFF000⟩
  | .frameOnAuto _ _ _ => ⟨.word43, some 0x25150000008, 0x7FFF000000F⟩
  | .frameOnCool _ _ _ => ⟨.word43, some 0x25150000009, 0x7FFF000000F⟩
  | .frameOnDry _ _ _ => ⟨.word43, some 0x2515000000A, 0x7FFF000000F⟩
  | .frameOnFan _ _ _ => ⟨.word43, some 0x2515000000B, 0x7FFF000000F⟩
  | .frameOnHeat _ _ _ => ⟨.word43, some 0x2515000000C, 0x7FFF000000F⟩
  | .frameOnRsv5 _ _ _ => ⟨.word43, some 0x2515000000D, 0x7FFF000000F⟩
  | .frameOnRsv6 _ _ _ => ⟨.word43, some 0x2515000000E, 0x7FFF000000F⟩
  | .frameOnRsv7 _ _ _ => ⟨.word43, some 0x2515000000F, 0x7FFF000000F⟩
  | .frameOff _ _ _ _ => ⟨.word43, some 0x25150000000, 0x7FFF0000008⟩
  | .frameForeign _ _ => ⟨.word43, none, 0x7FFF0000000⟩
  | .symHeader _ | .symBit1 _ | .symBit0 _ | .symTrail _ => ⟨.pulse, none, 0⟩

/-- The format an operation is written in, and the bits the table numbers. -/
def codeFormat : Code → TableFormat
  | .command _ => .cmd3
  | .frame _ | .encoderWord _ => .word43
  | .subop _ => .subop
  | .symbol _ _ => .pulse

def codeBits : Code → Nat
  | .command p => p.cmd.toNat
  | .frame w | .encoderWord w => w.toNat
  | .subop _ | .symbol _ _ => 0

/-- How a command line names a timing register (30_encoding.md R84). -/
inductive AsmTp
  | name (r : TpReg)
  | number (n : Nat)
  deriving DecidableEq, Repr

/-- One command line of 30_encoding.md R84; a temperature is the number of 1/256 degrees. -/
inductive AsmLine
  | nop
  | wrtp (t : AsmTp) (us : Nat)
  | rdtp (t : AsmTp)
  | transmit (mode : Mode) (fan : Fan) (temp256 : Int)
  | decode
  deriving DecidableEq, Repr

/-- The index of a timing register (10_state.md R23). -/
def tpIndex : TpReg → BitVec 3
  | .hm => 0 | .hs => 1 | .bm => 2 | .os => 3 | .zs => 4

/-- The index a command line sets: a name, or a number 0 to 4 (30_encoding.md R84). -/
def asmIndex : AsmTp → Option (BitVec 3)
  | .name r => some (tpIndex r)
  | .number n => if n ≤ 4 then some (BitVec.ofNat 3 n) else none

/-- The port values a command line sets (30_encoding.md R84). -/
def assemble : AsmLine → Option Ports
  | .nop => some { cmd := 0 }
  | .wrtp t us => do
    let i ← asmIndex t
    if us < 2 ^ 32 then some { cmd := 1, tpIdx := i, tpWdata := BitVec.ofNat 32 us } else none
  | .rdtp t => do
    let i ← asmIndex t
    some { cmd := 2, tpIdx := i }
  | .transmit m f t =>
    if -32768 ≤ t ∧ t < 32768 then
      some { cmd := 3, modeIn := portOfMode m, fanIn := portOfFan f, tempIn := BitVec.ofInt 16 t }
    else none
  | .decode => some { cmd := 4 }

end Sys2Proof
end

