-- ==== Sys2Proof/Machine/State.lean ====
section
/-! DEFINITION. The codec's whole state as plain data (10_state.md R20, R29; 00_scope.md R6; 30_encoding.md R77), the
reasons a step can stop, and the state after reset (R31). -/

namespace Sys2Proof.Machine

/-- FSM, where DECODE is (10_state.md R26). -/
inductive Fsm
  | expectHeader | expectBit | frameComplete | done | failed
  deriving DecidableEq, Repr

/-- RES, the result of the last DECODE (60_exceptions.md R180). -/
inductive Res
  | ok | headerMismatch | truncatedFrame | signatureMismatch
  deriving DecidableEq, Repr

/-- The Timing Profile TP (10_state.md R23). -/
structure TimingProfile where
  hm : Dur
  hs : Dur
  bm : Dur
  os : Dur
  zs : Dur
  deriving DecidableEq, Repr

/-- Which timing registers a WRTP has written since reset (93 U1). The model's bookkeeping: the hardware has no valid
bits (92 D5). -/
structure TpFlags where
  hm : Bool
  hs : Bool
  bm : Bool
  os : Bool
  zs : Bool
  deriving DecidableEq, Repr

/-- OUT, the decoded ClimateState on its ports (10_state.md R27, 30_encoding.md R83). -/
structure Out where
  mode : BitVec 3
  fan : BitVec 3
  temp : BitVec 5
  swing : BitVec 1
  deriving DecidableEq, Repr

/-- A call on the transmitter (20_memory.md R44). -/
inductive TxCall
  | begin (carrierHz : Nat)
  | pulse (mark space : Dur)
  | mark (mark : Dur)
  | send
  deriving DecidableEq, Repr

/-- One element of the transmitter's frame F (20_memory.md R44). -/
inductive Segment
  | mark (d : Dur)
  | space (d : Dur)
  deriving DecidableEq, Repr

/-- What the outside can see happen, one entry each: a call on the transmitter, a call of RxMatch with its answer,
a Publish after a TRANSMIT (the host's own state, 40_encoder.md R110), a Publish after a DECODE (41_decoder.md R143). -/
inductive Event
  | tx (c : TxCall)
  | rxMatch (mark space : Dur) (answer : Bool)
  | publishSent (mode : Mode) (fan : Fan) (temp : BitVec 16) (swing : BitVec 1)
  | publishDecoded (o : Out)
  deriving DecidableEq, Repr

/-- The receiver: the captured buffer P and its cursor k (20_memory.md R46). -/
structure Receiver where
  buf : List Pulse
  cur : Nat
  deriving DecidableEq, Repr

/-- The transmitter: the frame F under construction and its carrier (20_memory.md R44). -/
structure Transmitter where
  carrier : Nat
  frame : List Segment
  deriving DecidableEq, Repr

/-- The value the last sub-operation returned (30_encoding.md R78: it has no port of its own). -/
inductive SubResult
  | none
  | encode (word : ProtocolWord) (newmb : ModeCode)
  | validate (valid : Bool)
  | unpack (o : Out)
  deriving DecidableEq, Repr

/-- What the host does next: assert `rst`, raise the receive-complete event with a captured buffer
(60_exceptions.md R188), or issue an operation (30_encoding.md R78). -/
inductive HostInput
  | reset
  | receive (buf : List Pulse)
  | issue (c : Code)
  deriving DecidableEq, Repr

/-- The reasons the machine stops with a fault: none. The three frame errors of 60_exceptions.md R180 are results of
DECODE, not stops (R184, R187). -/
inductive Fault
  deriving DecidableEq, Repr

/-- The reasons the model gives an operation no meaning. -/
inductive Refusal
  /-- Raised by exec's arm of an instruction that has no meaning yet. Safe. -/
  | notModelled (mnemonic : String)
  /-- Raised by RESERVED_CMD5, RESERVED_CMD6 and RESERVED_CMD7: "The codec defines no behaviour for them; a model refuses"
  (30_encoding.md R79). Safe. -/
  | reservedCommand (code : BitVec 3)
  /-- Raised by WRTP and RDTP with an index that selects no register (20_memory.md R41, 93 U8). Safe. -/
  | tpIndexUnmapped (idx : BitVec 3)
  /-- Raised by RDTP, TRANSMIT, DECODE, EMIT and the wire symbols where a register they use has not been written since reset, unless
  `Cfg.unwritten` says otherwise: "a model refuses them" (70_reset_and_hazards.md R203, 42_timing_profile.md R171, 93 U1). Safe. -/
  | tpUnwritten (r : TpReg)
  /-- Raised by TRANSMIT, DECODE, EMIT and the wire symbols where a register they use reads as 0: "A model refuses operations that use
  a zero duration" (70_reset_and_hazards.md R207, 93 U5). Safe. -/
  | tpZero (r : TpReg)
  /-- Raised by step where the bits issued are no operation. Safe. -/
  | undecodable (why : DecodeReject)
  deriving DecidableEq, Repr

/-- The state. The first group is the complete state of the codec by 10_state.md R20; then the result port of RDTP; the
two collaborators (R29); the parameters (00_scope.md R6); and the model's own bookkeeping (DESIGN CHOICE,
safe: notes/assumptions 2, 3, 5, 7, 10, 17). -/
structure State where
  mb : ModeCode
  tp : TimingProfile
  w : ProtocolWord
  acc : ProtocolWord
  nb : BitVec 6
  fsm : Fsm
  idx : BitVec 6
  res : Res
  out : Out
  tpRdata : Dur
  rx : Receiver
  tx : Transmitter
  cfg : Cfg
  tpWritten : TpFlags
  inputs : List HostInput
  events : List Event
  ret : SubResult
  draws : Nat
  deriving DecidableEq, Repr

/-- The machine right after reset (10_state.md R31, 70_reset_and_hazards.md R200): MB, RES and NB as the spec states; every
other value is a DESIGN CHOICE named in notes/assumptions 2 to 8 and 10 (unsafe for 5, 6, 7 and 8). -/
def State.reset : State where
  mb := 0
  tp := { hm := 0, hs := 0, bm := 0, os := 0, zs := 0 }
  w := 0
  acc := 0
  nb := 0
  fsm := .expectHeader
  idx := 0
  res := .ok
  out := { mode := 0, fan := 0, temp := 16, swing := 0 }
  tpRdata := 0
  rx := { buf := [], cur := 0 }
  tx := { carrier := 0, frame := [] }
  cfg := Config.default
  tpWritten := { hm := false, hs := false, bm := false, os := false, zs := false }
  inputs := []
  events := []
  ret := .none
  draws := 0

end Sys2Proof.Machine
end

