-- ==== Sys2Proof/Machine/Ops.lean ====
section
/-! DEFINITION. The named operations over the timing registers, the receiver, the transmitter and the result registers;
raising a frame error, and reset. -/

namespace Sys2Proof.Machine

/-! ### The TP index space (20_memory.md R41) -/

/-- The register an index selects: 0 to 4, and nothing for 5, 6 and 7. -/
def tpOfIndex (i : BitVec 3) : Option TpReg :=
  match i.toNat with
  | 0 => some .hm | 1 => some .hs | 2 => some .bm | 3 => some .os | 4 => some .zs
  | _ => none

def tpGet (p : TimingProfile) : TpReg → Dur
  | .hm => p.hm | .hs => p.hs | .bm => p.bm | .os => p.os | .zs => p.zs

def tpSet (p : TimingProfile) (r : TpReg) (v : Dur) : TimingProfile :=
  match r with
  | .hm => { p with hm := v } | .hs => { p with hs := v } | .bm => { p with bm := v }
  | .os => { p with os := v } | .zs => { p with zs := v }

def tpIsWritten (f : TpFlags) : TpReg → Bool
  | .hm => f.hm | .hs => f.hs | .bm => f.bm | .os => f.os | .zs => f.zs

def tpMarkWritten (f : TpFlags) (r : TpReg) : TpFlags :=
  match r with
  | .hm => { f with hm := true } | .hs => { f with hs := true } | .bm => { f with bm := true }
  | .os => { f with os := true } | .zs => { f with zs := true }

/-- TP[r] <- v (42_timing_profile.md R170). -/
def writeTp (r : TpReg) (v : Dur) (s : State) : State :=
  { s with tp := tpSet s.tp r v, tpWritten := tpMarkWritten s.tpWritten r }

/-- The five registers in index order. -/
def allTp : List TpReg := [.hm, .hs, .bm, .os, .zs]

/-- May an operation read this register: it was written since reset, or reads of the others are not refused (10_state.md R31,
70_reset_and_hazards.md R203, 93 U1). -/
def tpMayRead (s : State) (r : TpReg) : Bool :=
  tpIsWritten s.tpWritten r || s.cfg.unwritten == .unspecified

/-- What a timing register reads as: its value, or a free value while nothing has written it since reset (10_state.md R31
"unspecified", 42_timing_profile.md R171; notes/assumptions/17.md). -/
def tpRead (s : State) (r : TpReg) : Dur :=
  if tpIsWritten s.tpWritten r then tpGet s.tp r else Config.freeDur s.draws r

/-- The refusal of a read of these registers, if there is one: the first that may not be read: "outside the
spec, and a model refuses them" (R203; 42_timing_profile.md R171, 92 D5, 93 U1). -/
def tpUnreadable (rs : List TpReg) (s : State) : Option Refusal :=
  (rs.find? fun r => !tpMayRead s r).map .tpUnwritten

/-- The refusal of an operation that uses these registers, if there is one: one that may not be read, and after that one that reads
as 0 (70_reset_and_hazards.md R203, R207, 92 D7, 93 U5). -/
def tpObstacle (rs : List TpReg) (s : State) : Option Refusal :=
  match tpUnreadable rs s with
  | some x => some x
  | none => (rs.find? fun r => tpRead s r == 0).map .tpZero

/-- The five values one operation reads. -/
def tpProfile (s : State) : TimingProfile :=
  { hm := tpRead s .hm, hs := tpRead s .hs, bm := tpRead s .bm, os := tpRead s .os, zs := tpRead s .zs }

/-- `f` on a machine that uses the registers `rs`: `f s` where all of them are written; else `f` reads the unwritten ones as free
values, the registers stay as they were, and the next operation draws anew. -/
def withProfile (rs : List TpReg) (f : State → State) (s : State) : State :=
  if rs.all (tpIsWritten s.tpWritten) then f s
  else
    let t := f { s with tp := tpProfile s }
    { t with tp := s.tp, draws := t.draws + 1 }

/-- `f s`, unless a register of `rs` may not be used. -/
def withTp (rs : List TpReg) (f : State → State) (s : State) : Host.Outcome State Fault Refusal :=
  match tpObstacle rs s with
  | some r => .refused r
  | none => .next (withProfile rs f s)

/-! ### The receiver (20_memory.md R46 to R48) -/

/-- The distance of two durations. -/
def durDistance (a b : Dur) : Nat := (a.toNat - b.toNat) + (b.toNat - a.toNat)

/-- Match(expected, observed) (20_memory.md R48). -/
def toleranceMatches : Tolerance → Dur → Dur → Bool
  | .unknown, e, o => Config.unknownMatch e o
  | .exact, e, o => e == o
  | .absolute d, e, o => decide (durDistance e o ≤ d.toNat)
  | .scaled k, e, o => decide (k * durDistance e o ≤ e.toNat)

/-- Both durations of the pair match (20_memory.md R47, R51). -/
def pulseMatches (t : Tolerance) (em es : Dur) (p : Pulse) : Bool :=
  toleranceMatches t em p.mark && toleranceMatches t es p.space

/-- What RxMatch answers: false on an exhausted buffer (20_memory.md R47). -/
def rxAnswer (t : Tolerance) (em es : Dur) (r : Receiver) : Bool :=
  match r.buf[r.cur]? with
  | some p => pulseMatches t em es p
  | none => false

/-- The state after a call of RxMatch that answers `b`: the call is recorded, and the cursor moves only on true. -/
def rxAfter (em es : Dur) (b : Bool) (s : State) : State :=
  { s with
    rx := { s.rx with cur := if b then s.rx.cur + 1 else s.rx.cur }
    events := s.events ++ [.rxMatch em es b] }

/-- RxMatch(em, es) (20_memory.md R47). -/
def rxMatch (em es : Dur) (s : State) : Bool × State :=
  let b := rxAnswer s.cfg.tolerance em es s.rx
  (b, rxAfter em es b s)

/-- The receive-complete event: the receiver holds a newly captured buffer (20_memory.md R46, 60_exceptions.md R188). -/
def capture (buf : List Pulse) (s : State) : State :=
  { s with rx := { buf := buf, cur := 0 } }

/-! ### The transmitter (20_memory.md R44) -/

/-- What a call does to the transmitter. What `send` does with F is the transmitter's affair. -/
def txApply (c : TxCall) (t : Transmitter) : Transmitter :=
  match c with
  | .begin f => { carrier := f, frame := [] }
  | .pulse m sp => { t with frame := t.frame ++ [.mark m, .space sp] }
  | .mark m => { t with frame := t.frame ++ [.mark m] }
  | .send => t

/-- One call on the transmitter, recorded. -/
def txCall (c : TxCall) (s : State) : State :=
  { s with tx := txApply c s.tx, events := s.events ++ [.tx c] }

/-- Calls on the transmitter, in order. -/
def txCalls : List TxCall → State → State
  | [], s => s
  | c :: cs, s => txCalls cs (txCall c s)

/-! ### Publish, and the result registers -/

/-- Publish (20_memory.md R50). -/
def publish (e : Event) (s : State) : State :=
  { s with events := s.events ++ [e] }

/-- OUT from free bits; swing is 0 always (30_encoding.md R83). -/
def outOfFree (v : BitVec 11) : Out :=
  { mode := v.extractLsb' 0 3, fan := v.extractLsb' 3 3, temp := v.extractLsb' 6 5, swing := 0 }

/-- `raise E` (60_exceptions.md R184): RES is the error, FSM is Failed, OUT becomes unspecified (a free value, 93 U13); NB,
MB, TP and the receiver's cursor stay, and nothing is published. -/
def raise (e : Res) (s : State) : State :=
  { s with res := e, fsm := .failed, out := outOfFree (Config.freeOut s.draws), draws := s.draws + 1 }

/-- The end of a successful DECODE (41_decoder.md R143): OUT, RES and FSM, then Publish(OUT). There is no return from an
error, because nothing was entered (60_exceptions.md R185). -/
def succeed (o : Out) (s : State) : State :=
  publish (.publishDecoded o) { s with out := o, res := .ok, fsm := .done }

/-! ### The Decoder's sequencing (41_decoder.md R131, R134, R145) -/

/-- The start of a DECODE (R131): ACC, NB, FSM, and the cursor at the first pair. -/
def startDecode (s : State) : State :=
  { s with acc := 0, nb := 0, fsm := .expectHeader, rx := { s.rx with cur := 0 } }

/-- FSM <- ExpectBit: the header matched (R132). -/
def headerMatched (s : State) : State :=
  { s with fsm := .expectBit }

/-- ACC after bit `b` (R134): shift right by one, `b` enters at bit 42. -/
def shiftAcc (b : Bool) (acc : ProtocolWord) : ProtocolWord :=
  (acc >>> 1) ||| (if b then 0x40000000000 else 0)

/-- One matched bit (R134, R145): ACC and NB, and FSM is FrameComplete as soon as NB is 43. -/
def shiftIn (b : Bool) (s : State) : State :=
  { s with
    acc := shiftAcc b s.acc
    nb := s.nb + 1
    fsm := if s.nb + 1 = 43 then .frameComplete else .expectBit }

/-- Forty-three bits matched, and they are `word` (R136): the Frame-Complete state on that word. -/
def completeFrame (word : ProtocolWord) (s : State) : State :=
  { s with acc := word, nb := 43, fsm := .frameComplete }

/-! ### The other registers -/

/-- MB <- m (10_state.md R22). -/
def setMb (m : ModeCode) (s : State) : State := { s with mb := m }

/-- W <- w (10_state.md R24). -/
def setW (w : ProtocolWord) (s : State) : State := { s with w := w }

/-- IDX <- i (10_state.md R26). -/
def setIdx (i : BitVec 6) (s : State) : State := { s with idx := i }

/-- tp_rdata <- v (42_timing_profile.md R171). -/
def setTpRdata (v : Dur) (s : State) : State := { s with tpRdata := v }

/-- The value a sub-operation returns. -/
def setRet (r : SubResult) (s : State) : State := { s with ret := r }

/-! ### Reset, and what the host does next -/

/-- Reset (70_reset_and_hazards.md R200): every register of the codec at its reset value. The parameters, the two
collaborators, the host's future, the trace and the count of free values are not the codec's and stay (DEDUCED, notes/assumptions/15.md). -/
def doReset (s : State) : State :=
  { State.reset with
    cfg := s.cfg, rx := s.rx, tx := s.tx, inputs := s.inputs, events := s.events, draws := s.draws }

/-- The next thing the host does, taken from its future (00_scope.md R10); nothing where the host is silent. -/
def fetch (s : State) : Option (HostInput × State) :=
  match s.inputs with
  | [] => none
  | x :: rest => some (x, { s with inputs := rest })

/-- The state with an operation issued next. -/
def issueNext (c : Code) (s : State) : State :=
  { s with inputs := .issue c :: s.inputs }

end Sys2Proof.Machine
end

