-- ==== Sys2Proof/Machine/Operands.lean ====
section
/-! DEFINITION. The maps between a ClimateState, the fields of a word and the pulses of a frame (30_encoding.md R62, R68, R69;
40_encoder.md R102 to R107; 41_decoder.md R137 to R142). -/

namespace Sys2Proof.Machine

/-! ### Encoding -/

/-- ModeMap (40_encoder.md R102): the command flag and the mode code. -/
def modeMap (mode : Mode) (mb : ModeCode) : BitVec 1 × ModeCode :=
  match mode with
  | .cool => (1, 1)
  | .heat => (1, 4)
  | .auto => (1, 0)
  | .dry => (1, 2)
  | .fanOnly => (1, 3)
  | .off | .unrecognized6 | .unrecognized7 => (0, mb)

/-- FanMap (40_encoder.md R105). -/
def fanMap : Fan → BitVec 4
  | .high => 4
  | .middle => 3
  | .medium => 2
  | .low => 1
  | .auto | .unrecognized5 | .unrecognized6 | .unrecognized7 => 8

/-- `temp_in` as a signed count of 1/256 degrees (30_encoding.md R82). -/
def tempRaw (temp : BitVec 16) : Int := temp.toInt

/-- clamp(v, lo, hi) (00_scope.md R8). -/
def clampInt (v lo hi : Int) : Int := if v < lo then lo else if hi < v then hi else v

/-- The clamped temperature in 1/256 degrees (40_encoder.md R104). -/
def tempClamped (temp : BitVec 16) : Int :=
  clampInt (tempRaw temp) (Config.tempMin * 256) (Config.tempMax * 256)

/-- round (00_scope.md R8) of a count of 1/256 to a whole number; `ROUND_TIE` decides at exactly one half (R6). -/
def roundTo (tie : RoundTie) (v : Int) : Int :=
  match tie with
  | .halfUp => (v + 128) / 256
  | .halfEven =>
    if v % 256 < 128 then v / 256
    else if 128 < v % 256 then v / 256 + 1
    else if (v / 256) % 2 = 0 then v / 256 else v / 256 + 1

/-- The temperature field (40_encoder.md R104). -/
def tempOffset (tie : RoundTie) (temp : BitVec 16) : BitVec 4 :=
  BitVec.ofInt 4 (roundTo tie (tempClamped temp) - Config.tempMin)

/-- Word assembly (30_encoding.md R68): the OR of disjoint fields. -/
def assembleWord (toff fan : BitVec 4) (flag : BitVec 1) (mode : ModeCode) : ProtocolWord :=
  Config.sig ||| (toff.zeroExtend 43 <<< 8) ||| (fan.zeroExtend 43 <<< 4) ||| (flag.zeroExtend 43 <<< 3)
    ||| mode.zeroExtend 43

/-- ENCODE (40_encoder.md R100): the word and the new mode-before code, which is the mode field just written (R103). -/
def encodeState (tie : RoundTie) (mode : Mode) (fan : Fan) (temp : BitVec 16) (mb : ModeCode) :
    ProtocolWord × ModeCode :=
  let m := modeMap mode mb
  (assembleWord (tempOffset tie temp) (fanMap fan) m.1 m.2, m.2)

/-! ### The frame on the wire (30_encoding.md R69) -/

/-- The header pair. -/
def headerPulse (p : TimingProfile) : Pulse := { mark := p.hm, space := p.hs }

/-- The pair of a bit: its space alone tells 1 from 0. -/
def bitPulse (p : TimingProfile) (b : Bool) : Pulse :=
  { mark := p.bm, space := if b then p.os else p.zs }

/-- The bits of a word, bit 0 first (20_memory.md R49, 40_encoder.md R108). -/
def wordBits (word : ProtocolWord) : List Bool :=
  (List.range 43).map fun i => word.getLsbD i

/-- The 44 pairs of a word's frame: the header, then the bits. -/
def framePulses (p : TimingProfile) (word : ProtocolWord) : List Pulse :=
  headerPulse p :: (wordBits word).map (bitPulse p)

/-- The call that appends a pair. -/
def pulseCall (p : Pulse) : TxCall := .pulse p.mark p.space

/-- EMIT's calls (40_encoder.md R107): the pairs, then the trailing mark, a bit-mark long (92 D12). -/
def emitCalls (p : TimingProfile) (word : ProtocolWord) : List TxCall :=
  (framePulses p word).map pulseCall ++ [.mark p.bm]

/-! ### Decoding -/

/-- VALIDATE (41_decoder.md R137): the masked word is the signature. -/
def validateWord (word : ProtocolWord) : Bool := word &&& Config.sigMask == Config.sig

/-- ModeOf (41_decoder.md R139). -/
def modeOf (flag : BitVec 1) (code : ModeCode) : Mode :=
  if flag = 0 then .off
  else match code.toNat with
    | 0 => .auto | 1 => .cool | 2 => .dry | 3 => .fanOnly | 4 => .heat
    | _ => .off

/-- FanOf (41_decoder.md R141). -/
def fanOf (code : BitVec 4) : Fan :=
  match code.toNat with
  | 4 => .high | 3 => .middle | 2 => .medium | 1 => .low
  | _ => .auto

/-- The decoded temperature (41_decoder.md R140). -/
def tempOf (toff : BitVec 4) : BitVec 5 := toff.zeroExtend 5 + 16

/-- UNPACK (41_decoder.md R138), in the numbering of the output ports (30_encoding.md R83); swing is Off (R142). -/
def unpackWord (word : ProtocolWord) : Out :=
  { mode := portOfMode (modeOf (flagOf word) (modeCodeOf word))
    fan := portOfFan (fanOf (fanCodeOf word))
    temp := tempOf (toffOf word)
    swing := 0 }

end Sys2Proof.Machine
end

