-- ==== Sys2Proof/Machine/Flags.lean ====
section
/-! DEFINITION. The status the host can read (10_state.md R27: there are no condition codes) and the output ports
(30_encoding.md R77). -/

namespace Sys2Proof.Machine

/-- The code of a result on `res` (60_exceptions.md R180). -/
def resCode : Res → BitVec 2
  | .ok => 0 | .headerMismatch => 1 | .truncatedFrame => 2 | .signatureMismatch => 3

/-- The output ports of 30_encoding.md R77. -/
structure OutPorts where
  tpRdata : Dur
  mbOut : ModeCode
  res : BitVec 2
  nb : BitVec 6
  outMode : BitVec 3
  outFan : BitVec 3
  outTemp : BitVec 5
  outSwing : BitVec 1
  deriving DecidableEq, Repr

/-- What the host reads on the output ports; `mb_out` is MB, read-only (10_state.md R21). -/
def outputs (s : State) : OutPorts :=
  { tpRdata := s.tpRdata, mbOut := s.mb, res := resCode s.res, nb := s.nb
    outMode := s.out.mode, outFan := s.out.fan, outTemp := s.out.temp, outSwing := s.out.swing }

end Sys2Proof.Machine
end

