-- ==== Sys2Proof/Machine/Encoder.lean ====
section
/-! DEFINITION. The Encoder: ENCODE, EMIT, TRANSMIT, and the word as the Encoder writes it (40_encoder.md, 30_encoding.md R60). -/

namespace Sys2Proof.Machine

/-- ENCODE (R100): pure, so it returns its word and its new mode-before code and writes no register (90 C5). -/
def execEncode (mode : Mode) (fan : Fan) (temp : BitVec 16) (mb : ModeCode) (s : State) :
    Host.Outcome State Fault Refusal :=
  let r := encodeState s.cfg.tie mode fan temp mb
  .next (setRet (.encode r.1 r.2) s)

/-- EMIT on the transmitter (R107): the calls, and IDX at the last index it takes (DESIGN CHOICE,
unsafe: notes/assumptions/6.md). -/
def emitWord (word : ProtocolWord) (s : State) : State :=
  setIdx 42 (txCalls (emitCalls s.tp word) s)

/-- EMIT (R107). -/
def execEmit (word : ProtocolWord) (s : State) : Host.Outcome State Fault Refusal :=
  withTp allTp (emitWord word) s

/-- TRANSMIT's steps in their fixed order (R109, R110): encode, transmit, publish. -/
def runTransmit (mode : Mode) (fan : Fan) (temp : BitVec 16) (s : State) : State :=
  let r := encodeState s.cfg.tie mode fan temp s.mb
  let s1 := txCall (.begin s.cfg.carrierHz) (setMb r.2 (setW r.1 s))
  publish (.publishSent mode fan temp 0) (txCall .send (emitWord r.1 s1))

/-- TRANSMIT (R109). -/
def execTransmit (mode : Mode) (fan : Fan) (temp : BitVec 16) (s : State) : Host.Outcome State Fault Refusal :=
  withTp allTp (runTransmit mode fan temp) s

/-- PROTOCOLWORD (30_encoding.md R60, R68): the word of these fields, in the Encoder's word register (10_state.md R24).
DESIGN CHOICE, safe: notes/assumptions/12.md. -/
def execProtocolWord (toff fan : BitVec 4) (flag : BitVec 1) (mode : ModeCode) (s : State) :
    Host.Outcome State Fault Refusal :=
  .next (setW (assembleWord toff fan flag mode) s)

end Sys2Proof.Machine
end

