-- ==== Sys2Proof/Machine/Decoder.lean ====
section
/-! DEFINITION. The Decoder: DECODE's state machine, VALIDATE and UNPACK (41_decoder.md). -/

namespace Sys2Proof.Machine

/-- Expect-Header (R132): one call of RxMatch on the header pair. -/
def tryHeader (s : State) : State :=
  let r := rxMatch s.tp.hm s.tp.hs s
  if r.1 then headerMatched r.2 else raise .headerMismatch r.2

/-- The one-space try (R133): whether it matched, and the state after it. -/
def tryOne (s : State) : Bool × State :=
  let r := rxMatch s.tp.bm s.tp.os s
  if r.1 then (true, shiftIn true r.2) else (false, r.2)

/-- The zero-space try (R133); where it fails too, the bit loop ends and the frame is truncated (R135, R136). -/
def tryZero (s : State) : State :=
  let r := rxMatch s.tp.bm s.tp.zs s
  if r.1 then shiftIn false r.2 else raise .truncatedFrame r.2

/-- Expect-Bit, one bit index (R133): the one-space first, then the zero-space on the same pair. -/
def bitStep (s : State) : State :=
  let r := tryOne s
  if r.1 then r.2 else tryZero r.2

/-- The bit loop (R130, R135), at most `n` bits. -/
def bitLoop : Nat → State → State
  | 0, s => s
  | n + 1, s => if s.fsm = .expectBit then bitLoop n (bitStep s) else s

/-- Frame-Complete (R137 to R143): validate ACC, then unpack it. -/
def finishFrame (s : State) : State :=
  if validateWord s.acc then succeed (unpackWord s.acc) s else raise .signatureMismatch s

/-- Frame-Complete, where it was reached (R136). -/
def finishIfComplete (s : State) : State :=
  if s.fsm = .frameComplete then finishFrame s else s

/-- DECODE's state machine (R130, R145). -/
def runDecode (s : State) : State :=
  finishIfComplete (bitLoop 43 (tryHeader (startDecode s)))

/-- DECODE (R130). -/
def execDecode (s : State) : Host.Outcome State Fault Refusal :=
  withTp allTp runDecode s

/-- VALIDATE (R137). -/
def execValidate (word : ProtocolWord) (s : State) : Host.Outcome State Fault Refusal :=
  .next (setRet (.validate (validateWord word)) s)

/-- UNPACK (R138): total, and writes no register of its own. -/
def execUnpack (word : ProtocolWord) (s : State) : Host.Outcome State Fault Refusal :=
  .next (setRet (.unpack (unpackWord word)) s)

end Sys2Proof.Machine
end

