-- ==== Sys2Proof/Machine/Frames.lean ====
section
/-! DEFINITION. The frame classes (30_encoding.md R71): what the Decoder does with 43 matched bits of each class
(41_decoder.md R136 to R145). DESIGN CHOICE, safe: a class is executed as the Frame-Complete state on
its word (notes/assumptions/13.md). -/

namespace Sys2Proof.Machine

/-- Forty-three matched bits that are `word`: Frame-Complete on it. -/
def receiveWord (word : ProtocolWord) (s : State) : State := finishFrame (completeFrame word s)

/-- A word that carries the signature. -/
def receiveFields (z : BitVec 16) (toff fan : BitVec 4) (flag : BitVec 1) (mode : ModeCode) (s : State) : State :=
  receiveWord (wordOfFields Config.sigField z toff fan flag mode) s

/-- FRAME_ON_AUTO: decoded mode Auto. -/
def execFrameOnAuto (z : BitVec 16) (toff fan : BitVec 4) (s : State) : Host.Outcome State Fault Refusal :=
  .next (receiveFields z toff fan 1 0 s)

/-- FRAME_ON_COOL: decoded mode Cool. -/
def execFrameOnCool (z : BitVec 16) (toff fan : BitVec 4) (s : State) : Host.Outcome State Fault Refusal :=
  .next (receiveFields z toff fan 1 1 s)

/-- FRAME_ON_DRY: decoded mode Dry. -/
def execFrameOnDry (z : BitVec 16) (toff fan : BitVec 4) (s : State) : Host.Outcome State Fault Refusal :=
  .next (receiveFields z toff fan 1 2 s)

/-- FRAME_ON_FAN: decoded mode FanOnly. -/
def execFrameOnFan (z : BitVec 16) (toff fan : BitVec 4) (s : State) : Host.Outcome State Fault Refusal :=
  .next (receiveFields z toff fan 1 3 s)

/-- FRAME_ON_HEAT: decoded mode Heat. -/
def execFrameOnHeat (z : BitVec 16) (toff fan : BitVec 4) (s : State) : Host.Outcome State Fault Refusal :=
  .next (receiveFields z toff fan 1 4 s)

/-- FRAME_ON_RSV5, RSV6, RSV7: unmapped mode codes, decoded mode Off, not an error (30_encoding.md R72). -/
def execFrameOnRsv5 (z : BitVec 16) (toff fan : BitVec 4) (s : State) : Host.Outcome State Fault Refusal :=
  .next (receiveFields z toff fan 1 5 s)
def execFrameOnRsv6 (z : BitVec 16) (toff fan : BitVec 4) (s : State) : Host.Outcome State Fault Refusal :=
  .next (receiveFields z toff fan 1 6 s)
def execFrameOnRsv7 (z : BitVec 16) (toff fan : BitVec 4) (s : State) : Host.Outcome State Fault Refusal :=
  .next (receiveFields z toff fan 1 7 s)

/-- FRAME_OFF: decoded mode Off, whatever the mode field holds (30_encoding.md R65). -/
def execFrameOff (z : BitVec 16) (toff fan : BitVec 4) (mode : ModeCode) (s : State) :
    Host.Outcome State Fault Refusal :=
  .next (receiveFields z toff fan 0 mode s)

/-- FRAME_FOREIGN: SignatureMismatch (60_exceptions.md R183). -/
def execFrameForeign (sig : BitVec 15) (low : BitVec 28) (s : State) : Host.Outcome State Fault Refusal :=
  .next (receiveWord (sig ++ low) s)

end Sys2Proof.Machine
end

