-- ==== Sys2Proof/Machine/Symbols.lean ====
section
/-! DEFINITION. The wire symbols (30_encoding.md R69): emitted, one call on the transmitter (40_encoder.md R107); or tried by the
Decoder, one line of its transition table (41_decoder.md R132, R133, R145). DESIGN CHOICE, safe: the two sides of a
symbol (notes/assumptions/11.md). -/

namespace Sys2Proof.Machine

/-- The Decoder tries a bit symbol only while it expects a bit (R132, R135, R147). -/
def expectsBit (s : State) : Bool := decide (s.fsm = .expectBit) && decide (s.nb.toNat < 43)

/-- SYM_HEADER: the header pair; on the receiving side the first pair of a DECODE (R131, R132). -/
def execSymHeader (dir : Dir) (s : State) : Host.Outcome State Fault Refusal :=
  match dir with
  | .tx => withTp [.hm, .hs] (fun s => txCall (pulseCall (headerPulse s.tp)) s) s
  | .rx => withTp [.hm, .hs] (fun s => tryHeader (startDecode s)) s

/-- SYM_BIT1: a 1 bit; tried first by the Decoder. -/
def execSymBit1 (dir : Dir) (s : State) : Host.Outcome State Fault Refusal :=
  match dir with
  | .tx => withTp [.bm, .os] (fun s => txCall (pulseCall (bitPulse s.tp true)) s) s
  | .rx => if expectsBit s then withTp [.bm, .os] (fun s => (tryOne s).2) s else .next s

/-- SYM_BIT0: a 0 bit; tried second by the Decoder, which gives the frame up where it fails too. -/
def execSymBit0 (dir : Dir) (s : State) : Host.Outcome State Fault Refusal :=
  match dir with
  | .tx => withTp [.bm, .zs] (fun s => txCall (pulseCall (bitPulse s.tp false)) s) s
  | .rx => if expectsBit s then withTp [.bm, .zs] tryZero s else .next s

/-- SYM_TRAIL: the trailing mark; the Decoder does not examine it (R147). -/
def execSymTrail (dir : Dir) (s : State) : Host.Outcome State Fault Refusal :=
  match dir with
  | .tx => withTp [.bm] (fun s => txCall (.mark s.tp.bm) s) s
  | .rx => .next s

end Sys2Proof.Machine
end

