-- ==== Sys2Proof/Machine/Timing.lean ====
section
/-! DEFINITION. NOP, WRTP, RDTP (42_timing_profile.md) and the reserved command codes (30_encoding.md R79). -/

namespace Sys2Proof.Machine

/-- NOP (R172). -/
def execNop (s : State) : Host.Outcome State Fault Refusal := .next s

/-- WRTP (R170): the value is not checked. -/
def execWrtp (idx : BitVec 3) (val : Dur) (s : State) : Host.Outcome State Fault Refusal :=
  match tpOfIndex idx with
  | some r => .next (writeTp r val s)
  | none => .refused (.tpIndexUnmapped idx)

/-- RDTP (R171): a register holding 0 may be read; one not written since reset "returns an unspecified value; a model refuses it":
which of the two, `Cfg.unwritten` says (notes/assumptions/17.md). -/
def execRdtp (idx : BitVec 3) (s : State) : Host.Outcome State Fault Refusal :=
  match tpOfIndex idx with
  | some r =>
    match tpUnreadable [r] s with
    | some x => .refused x
    | none => .next (withProfile [r] (fun s => setTpRdata (tpGet s.tp r) s) s)
  | none => .refused (.tpIndexUnmapped idx)

/-- Command codes 5, 6 and 7 (30_encoding.md R79, 93 U7): refused. -/
def execReservedCmd5 (_ : State) : Host.Outcome State Fault Refusal := .refused (.reservedCommand 5)
def execReservedCmd6 (_ : State) : Host.Outcome State Fault Refusal := .refused (.reservedCommand 6)
def execReservedCmd7 (_ : State) : Host.Outcome State Fault Refusal := .refused (.reservedCommand 7)

end Sys2Proof.Machine
end

