-- ==== Sys2Proof/Machine/Dispatch.lean ====
section
/-! DEFINITION. exec: one arm per constructor of Instr. -/

namespace Sys2Proof.Machine

def exec (i : Instr) (s : State) : Host.Outcome State Fault Refusal :=
  match i with
  | .nop => Sys2Proof.Machine.execNop s
  | .wrtp idx val => Sys2Proof.Machine.execWrtp idx val s
  | .rdtp idx => Sys2Proof.Machine.execRdtp idx s
  | .transmit mode fan temp => Sys2Proof.Machine.execTransmit mode fan temp s
  | .decode => Sys2Proof.Machine.execDecode s
  | .reservedCmd5 => Sys2Proof.Machine.execReservedCmd5 s
  | .reservedCmd6 => Sys2Proof.Machine.execReservedCmd6 s
  | .reservedCmd7 => Sys2Proof.Machine.execReservedCmd7 s
  | .encode mode fan temp mb => Sys2Proof.Machine.execEncode mode fan temp mb s
  | .emit word => Sys2Proof.Machine.execEmit word s
  | .validate word => Sys2Proof.Machine.execValidate word s
  | .unpack word => Sys2Proof.Machine.execUnpack word s
  | .protocolWord toff fan flag mode => Sys2Proof.Machine.execProtocolWord toff fan flag mode s
  | .frameOnAuto z toff fan => Sys2Proof.Machine.execFrameOnAuto z toff fan s
  | .frameOnCool z toff fan => Sys2Proof.Machine.execFrameOnCool z toff fan s
  | .frameOnDry z toff fan => Sys2Proof.Machine.execFrameOnDry z toff fan s
  | .frameOnFan z toff fan => Sys2Proof.Machine.execFrameOnFan z toff fan s
  | .frameOnHeat z toff fan => Sys2Proof.Machine.execFrameOnHeat z toff fan s
  | .frameOnRsv5 z toff fan => Sys2Proof.Machine.execFrameOnRsv5 z toff fan s
  | .frameOnRsv6 z toff fan => Sys2Proof.Machine.execFrameOnRsv6 z toff fan s
  | .frameOnRsv7 z toff fan => Sys2Proof.Machine.execFrameOnRsv7 z toff fan s
  | .frameOff z toff fan mode => Sys2Proof.Machine.execFrameOff z toff fan mode s
  | .frameForeign sig low => Sys2Proof.Machine.execFrameForeign sig low s
  | .symHeader dir => Sys2Proof.Machine.execSymHeader dir s
  | .symBit1 dir => Sys2Proof.Machine.execSymBit1 dir s
  | .symBit0 dir => Sys2Proof.Machine.execSymBit0 dir s
  | .symTrail dir => Sys2Proof.Machine.execSymTrail dir s

end Sys2Proof.Machine
end

