-- ==== Sys2Proof/Machine/Step.lean ====
section
/-! DEFINITION. One step: what the host does next, done whole (00_scope.md R10, 20_memory.md R54). -/

namespace Sys2Proof.Machine

/-- One step. A silent host leaves the codec idle (70_reset_and_hazards.md R200: it "does nothing until commanded"). -/
def step (s : State) : Host.Outcome State Fault Refusal :=
  match fetch s with
  | none => .next s
  | some (.reset, s') => .next (doReset s')
  | some (.receive buf, s') => .next (capture buf s')
  | some (.issue c, s') =>
    match decode c with
    | .ok i => exec i s'
    | .error why => .refused (.undecodable why)

/-- `s` with a number of the opcode table issued next (notes/assumptions/2.md); `s` itself where it is no operation. -/
def State.withFetchWord (s : State) (nbits w : Nat) : State :=
  match tableCode nbits w with
  | .ok c => issueNext c s
  | .error _ => s

end Sys2Proof.Machine
end

