-- ==== Sys2Proof/Safety.lean ====
section
/-! DEFINITION. What claims are stated in: a ready Timing Profile, the two premises on the receiver, the Decoder's contract as a
function of the pulses, the invariant of the machine. -/

namespace Sys2Proof

open Sys2Proof.Machine

/-- The host has done what 70_reset_and_hazards.md R203 asks: all five timing registers written, each positive. -/
abbrev Ready (s : State) : Prop := ∀ r ∈ allTp, tpIsWritten s.tpWritten r = true ∧ tpGet s.tp r ≠ 0

/-- Every timing register may be read, and reads as a positive duration (70_reset_and_hazards.md R203, R207): of a ready machine, and
of any machine on which the use of registers not written is not refused and none reads as 0. -/
abbrev Usable (s : State) : Prop := ∀ r ∈ allTp, tpMayRead s r = true ∧ tpRead s r ≠ 0

/-- `p` is the Timing Profile as an operation may read it: a register that was written reads as its value; of the others nothing
is known (10_state.md R31). -/
abbrev ReadsAs (s : State) (p : TimingProfile) : Prop :=
  ∀ r : TpReg, tpIsWritten s.tpWritten r = true → tpGet p r = tpGet s.tp r

/-- MatchRefl (20_memory.md R48). -/
abbrev MatchRefl (t : Tolerance) : Prop := ∀ d : Dur, toleranceMatches t d d = true

/-- Distinct(TP) (20_memory.md R48): the expected one-space does not match an observed zero-space. -/
abbrev Distinct (t : Tolerance) (p : TimingProfile) : Prop := toleranceMatches t p.os p.zs = false

/-- The errors of `decode` as its contract has them (00_scope.md R9, 60_exceptions.md R180). -/
inductive FrameError
  | headerMismatch
  | truncated (received : Nat)
  | signatureMismatch
  deriving DecidableEq, Repr

/-- The bits at the head of a list of pairs, at most `n`: the one-space first, then the zero-space (41_decoder.md R133, R135). -/
def readBits (t : Tolerance) (p : TimingProfile) : Nat → List Pulse → List Bool
  | 0, _ => []
  | _ + 1, [] => []
  | n + 1, q :: qs =>
    if pulseMatches t p.bm p.os q then true :: readBits t p n qs
    else if pulseMatches t p.bm p.zs q then false :: readBits t p n qs
    else []

/-- The word of bits received first bit first: the first is bit 0 (41_decoder.md R134). -/
def wordOfBits : List Bool → ProtocolWord
  | [] => 0
  | b :: bs => (wordOfBits bs <<< 1) ||| (if b then 1 else 0)

/-- `decode(pulses) -> Result<ClimateState, FrameError>` (30_encoding.md R84, 41_decoder.md R130), as a function of the whole
buffer. -/
def decodeContract (t : Tolerance) (p : TimingProfile) (buf : List Pulse) : Except FrameError Out :=
  match buf with
  | [] => .error .headerMismatch
  | q :: qs =>
    if pulseMatches t p.hm p.hs q = false then .error .headerMismatch
    else
      let bits := readBits t p 43 qs
      if bits.length < 43 then .error (.truncated bits.length)
      else if validateWord (wordOfBits bits) then .ok (unpackWord (wordOfBits bits))
      else .error .signatureMismatch

/-- The Decoder's registers agree with where it is (10_state.md R25 to R27, 41_decoder.md R134, R145, 60_exceptions.md R180). -/
abbrev DecoderCoherent (s : State) : Prop :=
  (s.fsm = .expectHeader → s.nb = 0 ∧ s.acc = 0) ∧
  (s.fsm = .expectBit → s.nb.toNat < 43 ∧ s.acc.toNat % 2 ^ (43 - s.nb.toNat) = 0) ∧
  (s.fsm = .frameComplete → s.nb = 43) ∧
  (s.fsm = .done → s.res = .ok ∧ s.nb = 43 ∧ validateWord s.acc = true ∧ s.out = unpackWord s.acc) ∧
  (s.fsm = .failed →
    (s.res = .headerMismatch ∧ s.nb = 0) ∨ (s.res = .truncatedFrame ∧ s.nb.toNat < 43) ∨
    (s.res = .signatureMismatch ∧ s.nb = 43 ∧ validateWord s.acc = false))

/-- The invariant: MB is one of the five mapped codes (10_state.md R22), IDX stays in its range (R26), the cursor stays in the
buffer (20_memory.md R47), swing is Off (30_encoding.md R83), and the Decoder is coherent. -/
abbrev Inv (s : State) : Prop :=
  s.mb.toNat ≤ 4 ∧ s.idx.toNat ≤ 42 ∧ s.rx.cur ≤ s.rx.buf.length ∧ s.out.swing = 0 ∧ DecoderCoherent s

/-- The words the Encoder can produce as a pure function (30_encoding.md R76). -/
abbrev EncoderCanProduce (word : ProtocolWord) : Prop :=
  sigOf word = Config.sigField ∧ uncheckedOf word = 0 ∧ (toffOf word).toNat ≤ 14 ∧
  (fanCodeOf word = 1 ∨ fanCodeOf word = 2 ∨ fanCodeOf word = 3 ∨ fanCodeOf word = 4 ∨ fanCodeOf word = 8) ∧
  (flagOf word = 1 → (modeCodeOf word).toNat ≤ 4)

/-- The microseconds a segment lasts. -/
def segmentLength : Segment → Nat
  | .mark d => d.toNat
  | .space d => d.toNat

/-- The length of a frame under construction, in microseconds (70_reset_and_hazards.md R212). -/
def frameLength (f : List Segment) : Nat := (f.map segmentLength).sum

/-- popcount (00_scope.md R8) of a word. -/
def onesOf (word : ProtocolWord) : Nat := (wordBits word).count true

/-- What the host may issue (30_encoding.md R78): a command. Sub-operations, frame words and wire symbols it cannot. -/
def hostMayIssue : HostInput → Bool
  | .reset => true
  | .receive _ => true
  | .issue (.command _) => true
  | .issue (.frame _) => false
  | .issue (.encoderWord _) => false
  | .issue (.subop _) => false
  | .issue (.symbol _ _) => false

/-- A run of the hardware: the host issues commands only. -/
abbrev HostKeepsInterface (s : State) : Prop := s.inputs.all hostMayIssue = true

/-- Operations one after another, to the first that does not answer a next state (20_memory.md R54). -/
def execAll : List Instr → State → Host.Outcome State Fault Refusal
  | [], s => .next s
  | i :: is, s =>
    match exec i s with
    | .next t => execAll is t
    | .fault r => .fault r
    | .refused r => .refused r

/-- The symbols of a word's frame, as the Encoder emits them (30_encoding.md R69). -/
def frameSymbols (word : ProtocolWord) : List Instr :=
  .symHeader .tx :: (wordBits word).map (fun b => if b then .symBit1 .tx else .symBit0 .tx) ++ [.symTrail .tx]

/-- One bit index of a DECODE by its symbols: the one-space try, and where it did not match the zero-space try (41_decoder.md R133). -/
def symbolBit (s : State) : Host.Outcome State Fault Refusal :=
  match exec (.symBit1 .rx) s with
  | .next t => if t.nb = s.nb then exec (.symBit0 .rx) t else .next t
  | .fault r => .fault r
  | .refused r => .refused r

/-- Up to `n` bit indices by their symbols. -/
def symbolBits : Nat → State → Host.Outcome State Fault Refusal
  | 0, s => .next s
  | n + 1, s =>
    match symbolBit s with
    | .next t => symbolBits n t
    | .fault r => .fault r
    | .refused r => .refused r

/-- A DECODE, symbol by symbol: the header, 43 bit indices, and the frame class of ACC where the frame is complete
(the transition table of 41_decoder.md R145). -/
def decodeBySymbols (s : State) : Host.Outcome State Fault Refusal :=
  match exec (.symHeader .rx) s with
  | .next t =>
    match symbolBits 43 t with
    | .next u => if u.fsm = .frameComplete then exec (decodeFrame u.acc) u else .next u
    | .fault r => .fault r
    | .refused r => .refused r
  | .fault r => .fault r
  | .refused r => .refused r

/-- The (mark, space) pairs a frame is received as; the trailing mark is no pair (20_memory.md R51). -/
def pairsOfFrame : List Segment → List Pulse
  | .mark m :: .space d :: rest => { mark := m, space := d } :: pairsOfFrame rest
  | _ => []

/-- Is it a Publish, a call of RxMatch (20_memory.md R50, R47). -/
def isPublish : Event → Bool
  | .publishSent _ _ _ _ => true
  | .publishDecoded _ => true
  | .tx _ => false
  | .rxMatch _ _ _ => false

def isRxMatch : Event → Bool
  | .rxMatch _ _ _ => true
  | .publishSent _ _ _ _ => false
  | .publishDecoded _ => false
  | .tx _ => false

/-- The mode code of an on-mode (40_encoder.md R102), none for Off and the unrecognized modes. -/
def onCode : Mode → Option ModeCode
  | .cool => some 1
  | .heat => some 4
  | .auto => some 0
  | .dry => some 2
  | .fanOnly => some 3
  | .off | .unrecognized6 | .unrecognized7 => none

/-- The operations that may write the Decoder's registers and results: DECODE, its last stage on a frame word, and its symbol
tries (10_state.md R20, R27). -/
def isDecoders : Instr → Bool
  | .decode => true
  | .frameOnAuto _ _ _ | .frameOnCool _ _ _ | .frameOnDry _ _ _ | .frameOnFan _ _ _ | .frameOnHeat _ _ _ => true
  | .frameOnRsv5 _ _ _ | .frameOnRsv6 _ _ _ | .frameOnRsv7 _ _ _ | .frameOff _ _ _ _ | .frameForeign _ _ => true
  | .symHeader d | .symBit1 d | .symBit0 d | .symTrail d => decide (d = .rx)
  | .nop | .wrtp _ _ | .rdtp _ | .transmit _ _ _ | .reservedCmd5 | .reservedCmd6 | .reservedCmd7 => false
  | .encode _ _ _ _ | .emit _ | .validate _ | .unpack _ | .protocolWord _ _ _ _ => false

/-- The operations that end a DECODE (41_decoder.md R143, R144). -/
def endsDecode : Instr → Bool
  | .decode => true
  | .frameOnAuto _ _ _ | .frameOnCool _ _ _ | .frameOnDry _ _ _ | .frameOnFan _ _ _ | .frameOnHeat _ _ _ => true
  | .frameOnRsv5 _ _ _ | .frameOnRsv6 _ _ _ | .frameOnRsv7 _ _ _ | .frameOff _ _ _ _ | .frameForeign _ _ => true
  | .symHeader _ | .symBit1 _ | .symBit0 _ | .symTrail _ => false
  | .nop | .wrtp _ _ | .rdtp _ | .transmit _ _ _ | .reservedCmd5 | .reservedCmd6 | .reservedCmd7 => false
  | .encode _ _ _ _ | .emit _ | .validate _ | .unpack _ | .protocolWord _ _ _ _ => false

/-- The reserved command codes (30_encoding.md R79). -/
def isReserved : Instr → Bool
  | .reservedCmd5 | .reservedCmd6 | .reservedCmd7 => true
  | .nop | .wrtp _ _ | .rdtp _ | .transmit _ _ _ | .decode => false
  | .encode _ _ _ _ | .emit _ | .validate _ | .unpack _ | .protocolWord _ _ _ _ => false
  | .frameOnAuto _ _ _ | .frameOnCool _ _ _ | .frameOnDry _ _ _ | .frameOnFan _ _ _ | .frameOnHeat _ _ _ => false
  | .frameOnRsv5 _ _ _ | .frameOnRsv6 _ _ _ | .frameOnRsv7 _ _ _ | .frameOff _ _ _ _ | .frameForeign _ _ => false
  | .symHeader _ | .symBit1 _ | .symBit0 _ | .symTrail _ => false

/-- No DECODE is under way: FSM stands where a reset or the end of a DECODE leaves it (10_state.md R26). -/
abbrev NoDecodeOpen (s : State) : Prop := s.fsm = .expectHeader ∨ s.fsm = .done ∨ s.fsm = .failed

end Sys2Proof
end

