-- ==== Sys2Proof/Certificates/Slice0/Obligations.lean ====
section
/-! DEFINITION. The statements for the provers, from the numbered rules of spec/. What the model adds to the spec's state is its
own: the host's future `inputs` (notes/assumptions/2.md), the trace `events` (3.md), the marks `tpWritten` (5.md), the result `ret`
(10.md) and the counter `draws` (7.md, 17.md); a statement that mentions one says of it what the model does. -/

open Sys2Proof Sys2Proof.Machine

/-! ### The register commands (42_timing_profile.md) -/

/-- R172: NOP, `cmd` = 0, does nothing: no state, no call, no Publish. -/
def Obligations.NopChangesNothing : Prop :=
  (∀ p : Ports, p.cmd = 0 → decode (.command p) = .ok .nop) ∧ ∀ s : State, exec .nop s = .next s

/-- R170: WRTP, `cmd` = 1, writes TP[i] and nothing else, whatever the value; indices 5, 6 and 7 are outside the interface. The mark that the
register is written is the model's own bookkeeping (notes/assumptions/5.md). -/
def Obligations.WrtpWritesOneRegister : Prop :=
  (∀ p : Ports, p.cmd = 1 → decode (.command p) = .ok (.wrtp p.tpIdx p.tpWdata)) ∧
  (∀ (r : TpReg) (v : Dur) (s : State), ∃ t, exec (.wrtp (tpIndex r) v) s = .next t ∧
    tpGet t.tp r = v ∧ (∀ q, q ≠ r → tpGet t.tp q = tpGet s.tp q) ∧
    (∀ q, tpIsWritten t.tpWritten q = (decide (q = r) || tpIsWritten s.tpWritten q)) ∧
    t = { s with tp := t.tp, tpWritten := t.tpWritten }) ∧
  (∀ (i : BitVec 3) (v : Dur) (s : State), 4 < i.toNat → exec (.wrtp i v) s = .refused (.tpIndexUnmapped i))

/-- R171: RDTP, `cmd` = 2, puts TP[i] on tp_rdata and writes nothing else; an index 5, 6 or 7 is refused. A register not written since
reset "returns an unspecified value; a model refuses it": it is refused, and where the model's parameter `Cfg.unwritten` says that it
is not (the model's choice, notes/assumptions/17.md), it completes with a value of which nothing is said. -/
def Obligations.RdtpReadsOneRegister : Prop :=
  (∀ p : Ports, p.cmd = 2 → decode (.command p) = .ok (.rdtp p.tpIdx)) ∧
  (∀ (r : TpReg) (s : State), tpIsWritten s.tpWritten r = true →
    exec (.rdtp (tpIndex r)) s = .next { s with tpRdata := tpGet s.tp r }) ∧
  (∀ (r : TpReg) (s : State), tpIsWritten s.tpWritten r = false → s.cfg.unwritten = .refused →
    exec (.rdtp (tpIndex r)) s = .refused (.tpUnwritten r)) ∧
  (∀ (r : TpReg) (s : State), tpIsWritten s.tpWritten r = false → s.cfg.unwritten = .unspecified →
    ∃ v, exec (.rdtp (tpIndex r)) s = .next { s with tpRdata := v, draws := s.draws + 1 }) ∧
  (∀ (i : BitVec 3) (s : State), 4 < i.toNat → exec (.rdtp i) s = .refused (.tpIndexUnmapped i))

/-- R23, R56, R170: RDTP reads back the value last written, with any operation but a WRTP, or a WRTP of another register,
in between. -/
def Obligations.RdtpReadsBackLastWrtp : Prop :=
  ∀ (r : TpReg) (v : Dur) (s t u : State) (i : Instr), exec (.wrtp (tpIndex r) v) s = .next t → exec i t = .next u →
    (∀ x, i ≠ .wrtp (tpIndex r) x) → exec (.rdtp (tpIndex r)) u = .next { u with tpRdata := v }

/-- R79: the reserved command codes get no step, from the ports as from exec. -/
def Obligations.ReservedCommandsRefused : Prop :=
  (∀ s : State, exec .reservedCmd5 s = .refused (.reservedCommand 5) ∧
    exec .reservedCmd6 s = .refused (.reservedCommand 6) ∧ exec .reservedCmd7 s = .refused (.reservedCommand 7)) ∧
  (∀ (s : State) (p : Ports), 4 < p.cmd.toNat → step (issueNext (.command p) s) = .refused (.reservedCommand p.cmd))

/-! ### The Encoder (40_encoder.md) -/

/-- R101, R102, R103, R105: ENCODE is total, writes no register, and returns the signature, the table of modes, the table of
fan speeds, and as new mode-before code the mode field just written. -/
def Obligations.EncodeBuildsTheWord : Prop :=
  ∀ (mode : Mode) (fan : Fan) (temp : BitVec 16) (mb : ModeCode) (s : State), ∃ word,
    exec (.encode mode fan temp mb) s = .next { s with ret := .encode word (modeCodeOf word) } ∧
    sigOf word = 0x2515 ∧ uncheckedOf word = 0 ∧
    flagOf word = (match mode with
      | .cool | .heat | .auto | .dry | .fanOnly => 1
      | .off | .unrecognized6 | .unrecognized7 => 0) ∧
    modeCodeOf word = (match mode with
      | .cool => 1 | .heat => 4 | .auto => 0 | .dry => 2 | .fanOnly => 3
      | .off | .unrecognized6 | .unrecognized7 => mb) ∧
    fanCodeOf word = (match fan with
      | .high => 4 | .middle => 3 | .medium => 2 | .low => 1
      | .auto | .unrecognized5 | .unrecognized6 | .unrecognized7 => 8)

/-- R104: the offset is the clamped temperature rounded to nearest, less 16, never 15; ROUND_TIE decides at one half, and under
half_up it is the rule's shift by 8; clamping first or rounding first is the same. -/
def Obligations.TemperatureFieldIsNearest : Prop :=
  ∀ (mode : Mode) (fan : Fan) (temp : BitVec 16) (mb : ModeCode) (s : State), ∃ word newmb,
    exec (.encode mode fan temp mb) s = .next { s with ret := .encode word newmb } ∧
    (toffOf word).toNat ≤ 14 ∧
    ∃ rawc ti : Int,
      rawc = (if temp.toInt < 4096 then 4096 else if 7680 < temp.toInt then 7680 else temp.toInt) ∧
      ti = 16 + (toffOf word).toNat ∧ -128 ≤ rawc - 256 * ti ∧ rawc - 256 * ti ≤ 128 ∧
      (s.cfg.tie = .halfUp → rawc - 256 * ti < 128 ∧ ti = (rawc + 128) / 256) ∧
      ti = max 16 (min 30 (roundTo s.cfg.tie temp.toInt)) ∧
      (s.cfg.tie = .halfEven → rawc - 256 * ti = 128 ∨ rawc - 256 * ti = -128 → ti % 2 = 0)

/-- R76: the words ENCODE can produce are exactly those of the rule's field ranges. -/
def Obligations.EncoderProducesExactlyTheseWords : Prop :=
  ∀ (word : ProtocolWord) (s : State),
    (∃ mode fan temp mb newmb, exec (.encode mode fan temp mb) s = .next { s with ret := .encode word newmb }) ↔
      EncoderCanProduce word

/-- R68: the word is the OR of its disjoint parts, and OR and addition agree. PROTOCOLWORD's effect, that W is loaded with that
word and nothing else changes, is the model's (notes/assumptions/12.md). -/
def Obligations.ProtocolWordIsAssembled : Prop :=
  ∀ (toff fan : BitVec 4) (flag : BitVec 1) (mode : ModeCode) (s : State), ∃ t,
    exec (.protocolWord toff fan flag mode) s = .next t ∧ t = { s with w := t.w } ∧
    t.w = 0x25150000000 ||| (toff.zeroExtend 43 <<< 8) ||| (fan.zeroExtend 43 <<< 4) |||
      (flag.zeroExtend 43 <<< 3) ||| mode.zeroExtend 43 ∧
    t.w.toNat = 0x25150000000 + 256 * toff.toNat + 16 * fan.toNat + 8 * flag.toNat + mode.toNat

/-- R107, R69: EMIT makes the header pair once, the 43 bit pairs with bit 0 first, and the trailing mark once, and writes nothing but
the transmitter's frame, the trace of calls and IDX. -/
def Obligations.EmitMakesTheFrame : Prop :=
  ∀ (word : ProtocolWord) (s : State), Ready s → ∃ t, exec (.emit word) s = .next t ∧
    t.events = s.events ++ [.tx (.pulse s.tp.hm s.tp.hs)] ++
      (List.range 43).map (fun i => .tx (.pulse s.tp.bm (if word.getLsbD i then s.tp.os else s.tp.zs))) ++
      [.tx (.mark s.tp.bm)] ∧
    t.tx.frame = s.tx.frame ++ [.mark s.tp.hm, .space s.tp.hs] ++
      (List.range 43).flatMap (fun i => [.mark s.tp.bm, .space (if word.getLsbD i then s.tp.os else s.tp.zs)]) ++
      [.mark s.tp.bm] ∧
    t = { s with tx := { s.tx with frame := t.tx.frame }, events := t.events, idx := t.idx }

/-- R108: EMIT is injective in the word whenever TP[OS] differs from TP[ZS]; both are registers the host wrote. -/
def Obligations.EmitIsInjective : Prop :=
  ∀ (a b : ProtocolWord) (s t u : State), tpIsWritten s.tpWritten .os = true → tpIsWritten s.tpWritten .zs = true →
    s.tp.os ≠ s.tp.zs → exec (.emit a) s = .next t → exec (.emit b) s = .next u →
    t.tx.frame = u.tx.frame → a = b

/-- R69, R107: EMIT is its symbols one after another, in the order of the wire, but for IDX, which only EMIT drives. That IDX
stays where a symbol is run alone is the model's choice (notes/assumptions/6.md), and so is a symbol as an operation (11.md). -/
def Obligations.EmitIsItsSymbols : Prop :=
  ∀ (word : ProtocolWord) (s : State), Ready s → ∃ t, exec (.emit word) s = .next t ∧
    execAll (frameSymbols word) s = .next { t with idx := s.idx }

/-- The pair or mark each symbol stands for, with the registers' own values, is R69. That a symbol is an operation, one call on the
transmitter that changes nothing else, is the model's choice (notes/assumptions/11.md), and that it needs the registers it uses and
no others is the model's reading, DEDUCED (notes/assumptions/5.md). -/
def Obligations.EmittedSymbolsAreOneCall : Prop :=
  ∀ s : State,
    ((∀ r ∈ [TpReg.hm, .hs], tpIsWritten s.tpWritten r = true ∧ tpGet s.tp r ≠ 0) →
      exec (.symHeader .tx) s = .next { s with
        tx := { s.tx with frame := s.tx.frame ++ [.mark s.tp.hm, .space s.tp.hs] }
        events := s.events ++ [.tx (.pulse s.tp.hm s.tp.hs)] }) ∧
    ((∀ r ∈ [TpReg.bm, .os], tpIsWritten s.tpWritten r = true ∧ tpGet s.tp r ≠ 0) →
      exec (.symBit1 .tx) s = .next { s with
        tx := { s.tx with frame := s.tx.frame ++ [.mark s.tp.bm, .space s.tp.os] }
        events := s.events ++ [.tx (.pulse s.tp.bm s.tp.os)] }) ∧
    ((∀ r ∈ [TpReg.bm, .zs], tpIsWritten s.tpWritten r = true ∧ tpGet s.tp r ≠ 0) →
      exec (.symBit0 .tx) s = .next { s with
        tx := { s.tx with frame := s.tx.frame ++ [.mark s.tp.bm, .space s.tp.zs] }
        events := s.events ++ [.tx (.pulse s.tp.bm s.tp.zs)] }) ∧
    ((∀ r ∈ [TpReg.bm], tpIsWritten s.tpWritten r = true ∧ tpGet s.tp r ≠ 0) →
      exec (.symTrail .tx) s = .next { s with
        tx := { s.tx with frame := s.tx.frame ++ [.mark s.tp.bm] }
        events := s.events ++ [.tx (.mark s.tp.bm)] })

/-- R109, R110: TRANSMIT, `cmd` = 3, encodes with MB, keeps the new code in MB, makes the 47 calls in order and then publishes the host's
own state; it writes nothing else. -/
def Obligations.TransmitEncodesSendsPublishes : Prop :=
  (∀ p : Ports, p.cmd = 3 →
    decode (.command p) = .ok (.transmit (modeOfPort p.modeIn) (fanOfPort p.fanIn) p.tempIn)) ∧
  ∀ (mode : Mode) (fan : Fan) (temp : BitVec 16) (s : State), Ready s → ∃ t,
    exec (.transmit mode fan temp) s = .next t ∧
    exec (.encode mode fan temp s.mb) s = .next { s with ret := .encode t.w t.mb } ∧
    t.events = s.events ++ [.tx (.begin s.cfg.carrierHz), .tx (.pulse s.tp.hm s.tp.hs)] ++
      (List.range 43).map (fun i => .tx (.pulse s.tp.bm (if t.w.getLsbD i then s.tp.os else s.tp.zs))) ++
      [.tx (.mark s.tp.bm), .tx .send, .publishSent mode fan temp 0] ∧
    t.tx.carrier = s.cfg.carrierHz ∧
    t.tx.frame = [.mark s.tp.hm, .space s.tp.hs] ++
      (List.range 43).flatMap (fun i => [.mark s.tp.bm, .space (if t.w.getLsbD i then s.tp.os else s.tp.zs)]) ++
      [.mark s.tp.bm] ∧
    t = { s with mb := t.mb, w := t.w, idx := t.idx, tx := t.tx, events := t.events }

/-- R111: an on-mode sends its code with flag 1 and leaves it in MB; Off and the unrecognized modes send MB with flag 0 and leave
it, and their word decodes as Off. -/
def Obligations.TransmitCarriesTheModeCode : Prop :=
  ∀ (mode : Mode) (fan : Fan) (temp : BitVec 16) (s : State), Ready s → ∃ t,
    exec (.transmit mode fan temp) s = .next t ∧ modeCodeOf t.w = t.mb ∧
    (∀ c, onCode mode = some c → flagOf t.w = 1 ∧ t.mb = c) ∧
    (onCode mode = none → flagOf t.w = 0 ∧ t.mb = s.mb ∧
      ∃ o : Out, exec (.unpack t.w) t = .next { t with ret := .unpack o } ∧ o.mode = portOfMode .off)

/-- R45: a TRANSMIT is 47 calls on the transmitter: TxBegin, 44 TxPulse, TxMark, TxSend; its frame is 89 durations, 44 marks
alternating with 44 spaces, then the trailing mark. -/
def Obligations.TransmittedFrameShape : Prop :=
  ∀ (mode : Mode) (fan : Fan) (temp : BitVec 16) (s : State), Ready s → ∃ (t : State) (ps : List Pulse) (calls : List TxCall),
    exec (.transmit mode fan temp) s = .next t ∧ ps.length = 44 ∧
    calls = [.begin s.cfg.carrierHz] ++ ps.map (fun q => .pulse q.mark q.space) ++ [.mark s.tp.bm, .send] ∧
    calls.length = 47 ∧ t.events = s.events ++ calls.map Event.tx ++ [.publishSent mode fan temp 0] ∧
    t.tx.frame = ps.flatMap (fun q => [.mark q.mark, .space q.space]) ++ [.mark s.tp.bm] ∧ t.tx.frame.length = 89

/-- R212: the length of the frame in microseconds, and the range of the number of 1 bits of an encoded word. -/
def Obligations.FrameLengthFormula : Prop :=
  ∀ (mode : Mode) (fan : Fan) (temp : BitVec 16) (s : State), Ready s → ∃ t,
    exec (.transmit mode fan temp) s = .next t ∧
    frameLength t.tx.frame = s.tp.hm.toNat + s.tp.hs.toNat + 43 * s.tp.bm.toNat + onesOf t.w * s.tp.os.toNat +
      (43 - onesOf t.w) * s.tp.zs.toNat + s.tp.bm.toNat ∧
    onesOf t.w = 6 + ((List.range 12).map t.w.getLsbD).count true ∧ 7 ≤ onesOf t.w ∧ onesOf t.w ≤ 14

/-! ### The Decoder (41_decoder.md, 60_exceptions.md) -/

/-- R181, R132: a first pair that does not match the header, or no pair at all, ends a DECODE with HeaderMismatch after one call. -/
def Obligations.HeaderMismatchEndsDecode : Prop :=
  ∀ s : State, Ready s → (∀ q, s.rx.buf.head? = some q → pulseMatches s.cfg.tolerance s.tp.hm s.tp.hs q = false) →
    ∃ t, exec .decode s = .next t ∧ t.res = .headerMismatch ∧ t.nb = 0 ∧ t.acc = 0 ∧ t.fsm = .failed ∧
      t.rx = { s.rx with cur := 0 } ∧ t.events = s.events ++ [.rxMatch s.tp.hm s.tp.hs false]

/-- R182: a matched header and fewer than 43 matched bits end a DECODE with TruncatedFrame, which reports how many matched;
nothing is published. -/
def Obligations.TruncatedFrameReportsBits : Prop :=
  ∀ (s : State) (q : Pulse) (qs : List Pulse), Ready s → s.rx.buf = q :: qs →
    pulseMatches s.cfg.tolerance s.tp.hm s.tp.hs q = true → (readBits s.cfg.tolerance s.tp 43 qs).length < 43 →
    ∃ t es, exec .decode s = .next t ∧ t.res = .truncatedFrame ∧ t.fsm = .failed ∧
      t.nb.toNat = (readBits s.cfg.tolerance s.tp 43 qs).length ∧ t.rx.cur = 1 + t.nb.toNat ∧
      t.events = s.events ++ es ∧ es.all isRxMatch = true

/-- R183: 43 matched bits whose bits 42:28 are not the signature end a DECODE with SignatureMismatch; nothing is published. -/
def Obligations.SignatureMismatchEndsDecode : Prop :=
  ∀ (s : State) (q : Pulse) (qs : List Pulse), Ready s → s.rx.buf = q :: qs →
    pulseMatches s.cfg.tolerance s.tp.hm s.tp.hs q = true → (readBits s.cfg.tolerance s.tp 43 qs).length = 43 →
    (wordOfBits (readBits s.cfg.tolerance s.tp 43 qs)).extractLsb' 28 15 ≠ 0x2515 →
    ∃ t es, exec .decode s = .next t ∧ t.res = .signatureMismatch ∧ t.fsm = .failed ∧ t.nb = 43 ∧ t.rx.cur = 44 ∧
      t.events = s.events ++ es ∧ es.all isRxMatch = true

/-- R143: 43 matched bits that carry the signature end a DECODE with Ok: NB is 43, OUT the unpacked state, one Publish(OUT), the
cursor after the 44th pair. -/
def Obligations.SuccessfulDecodePublishes : Prop :=
  ∀ (s : State) (q : Pulse) (qs : List Pulse), Ready s → s.rx.buf = q :: qs →
    pulseMatches s.cfg.tolerance s.tp.hm s.tp.hs q = true → (readBits s.cfg.tolerance s.tp 43 qs).length = 43 →
    (wordOfBits (readBits s.cfg.tolerance s.tp 43 qs)).extractLsb' 28 15 = 0x2515 →
    ∃ t es, exec .decode s = .next t ∧ t.res = .ok ∧ t.fsm = .done ∧ t.nb = 43 ∧ t.rx.cur = 44 ∧
      t.acc = wordOfBits (readBits s.cfg.tolerance s.tp 43 qs) ∧ t.out = unpackWord t.acc ∧
      t.events = s.events ++ es ++ [.publishDecoded t.out] ∧ es.all isRxMatch = true

/-- R130, R84: DECODE, the state machine over the receiver's calls, is the contract decode(pulses) -> Result of the whole buffer. -/
def Obligations.DecodeMeetsItsContract : Prop :=
  ∀ s : State, Ready s → ∃ t, exec .decode s = .next t ∧
    match decodeContract s.cfg.tolerance s.tp s.rx.buf with
    | .ok o => t.res = .ok ∧ t.nb = 43 ∧ t.fsm = .done ∧ t.out = o
    | .error .headerMismatch => t.res = .headerMismatch ∧ t.nb = 0 ∧ t.fsm = .failed
    | .error (.truncated n) => t.res = .truncatedFrame ∧ t.nb.toNat = n ∧ n ≤ 42 ∧ t.fsm = .failed
    | .error .signatureMismatch => t.res = .signatureMismatch ∧ t.nb = 43 ∧ t.fsm = .failed

/-- R180, R77, R83, R21: what the host reads on the output ports. `mb_out` is MB, and the other ports are the registers they name, in
every state; after a DECODE `res` is the code of the contract's result (0 Ok, 1 HeaderMismatch, 2 TruncatedFrame, 3
SignatureMismatch), `nb` is what R180 records beside it, `mb_out` is what it was, and on Ok the decoded state is in the ports'
ranges. -/
def Obligations.OutputPortsReportTheDecode : Prop :=
  (∀ s : State, (outputs s).mbOut = s.mb ∧ (outputs s).tpRdata = s.tpRdata ∧ (outputs s).nb = s.nb ∧
    (outputs s).outMode = s.out.mode ∧ (outputs s).outFan = s.out.fan ∧ (outputs s).outTemp = s.out.temp ∧
    (outputs s).outSwing = s.out.swing ∧
    (outputs s).res = (match s.res with
      | .ok => 0 | .headerMismatch => 1 | .truncatedFrame => 2 | .signatureMismatch => 3)) ∧
  ∀ s : State, Ready s → ∃ t, exec .decode s = .next t ∧ (outputs t).mbOut = s.mb ∧
    match decodeContract s.cfg.tolerance s.tp s.rx.buf with
    | .ok o => (outputs t).res = 0 ∧ (outputs t).nb = 43 ∧ (outputs t).outMode = o.mode ∧ (outputs t).outFan = o.fan ∧
        (outputs t).outTemp = o.temp ∧ (outputs t).outSwing = 0 ∧ (outputs t).outMode.toNat ≤ 5 ∧
        (outputs t).outFan.toNat ≤ 4 ∧ 16 ≤ (outputs t).outTemp.toNat
    | .error .headerMismatch => (outputs t).res = 1 ∧ (outputs t).nb = 0
    | .error (.truncated n) => (outputs t).res = 2 ∧ (outputs t).nb.toNat = n ∧ n ≤ 42
    | .error .signatureMismatch => (outputs t).res = 3 ∧ (outputs t).nb = 43

/-- R130, R20, R22: what DECODE leaves: MB, TP, W, IDX, tp_rdata, the transmitter, the receiver's buffer and everything that is not
the Decoder's. -/
def Obligations.DecodeFrameRule : Prop :=
  ∀ s : State, Ready s → ∃ t es, exec .decode s = .next t ∧ t.events = s.events ++ es ∧
    t = { s with acc := t.acc, nb := t.nb, fsm := t.fsm, res := t.res, out := t.out, rx := { s.rx with cur := t.rx.cur }
                 events := t.events, draws := t.draws }

/-- R213: the counts of calls and of Publish of a TRANSMIT and of a DECODE. -/
def Obligations.CallCounts : Prop :=
  (∀ (mode : Mode) (fan : Fan) (temp : BitVec 16) (s : State), Ready s → ∃ t es,
    exec (.transmit mode fan temp) s = .next t ∧ t.events = s.events ++ es ∧ es.length = 48 ∧
    es.countP (fun e => match e with | .tx (.begin _) => true | _ => false) = 1 ∧
    es.countP (fun e => match e with | .tx (.pulse _ _) => true | _ => false) = 44 ∧
    es.countP (fun e => match e with | .tx (.mark _) => true | _ => false) = 1 ∧
    es.countP (fun e => match e with | .tx .send => true | _ => false) = 1 ∧ es.countP isPublish = 1) ∧
  (∀ s : State, Ready s → ∃ t es, exec .decode s = .next t ∧ t.events = s.events ++ es ∧
    1 ≤ es.countP isRxMatch ∧ es.countP isRxMatch ≤ 87 ∧ es.countP isPublish ≤ 1 ∧
    (t.res = .headerMismatch → es.countP isRxMatch = 1) ∧
    (t.res = .ok → es.countP isRxMatch = 1 + 43 + (wordBits t.acc).count false))

/-- R137: VALIDATE is true exactly when the masked word is SIG, that is when bits 42:28 are 0x2515, and it writes no register. -/
def Obligations.ValidateChecksTheSignature : Prop :=
  ∀ (word : ProtocolWord) (s : State), ∃ b, exec (.validate word) s = .next { s with ret := .validate b } ∧
    (b = true ↔ word &&& 0x7FFF0000000 = 0x25150000000) ∧ (b = true ↔ word.extractLsb' 28 15 = 0x2515)

/-- R138, R139, R140, R141, R142: UNPACK is total, writes no register, and returns the tables of modes and fan speeds, the offset
plus 16, and swing Off. -/
def Obligations.UnpackExtractsTheFields : Prop :=
  ∀ (word : ProtocolWord) (s : State), ∃ o : Out, exec (.unpack word) s = .next { s with ret := .unpack o } ∧
    o.mode = (if word.getLsbD 3 = false then portOfMode .off else match (word.extractLsb' 0 3).toNat with
      | 0 => portOfMode .auto | 1 => portOfMode .cool | 2 => portOfMode .dry | 3 => portOfMode .fanOnly
      | 4 => portOfMode .heat | _ => portOfMode .off) ∧
    o.fan = (match (word.extractLsb' 4 4).toNat with
      | 4 => portOfFan .high | 3 => portOfFan .middle | 2 => portOfFan .medium | 1 => portOfFan .low
      | _ => portOfFan .auto) ∧
    o.temp.toNat = (word.extractLsb' 8 4).toNat + 16 ∧ o.swing = 0

/-- Every frame class but FRAME_FOREIGN ends with Ok and its mode on `out_mode`, whatever bits 27:12, the fan code and the offset
hold (R71, R72, R73, R75), and is published. That a FRAME row is executed as the Frame-Complete state of DECODE on its word, with no
call of RxMatch and the receiver kept, so that nothing outside the Decoder changes, is the model's choice (notes/assumptions/13.md). -/
def Obligations.ValidFramesDecode : Prop :=
  ∀ (z : BitVec 16) (toff fan : BitVec 4) (mode : ModeCode) (s : State),
    ∀ p ∈ [(Instr.frameOnAuto z toff fan, Mode.auto, 0x25150000008), (.frameOnCool z toff fan, .cool, 0x25150000009),
      (.frameOnDry z toff fan, .dry, 0x2515000000A), (.frameOnFan z toff fan, .fanOnly, 0x2515000000B),
      (.frameOnHeat z toff fan, .heat, 0x2515000000C), (.frameOnRsv5 z toff fan, .off, 0x2515000000D),
      (.frameOnRsv6 z toff fan, .off, 0x2515000000E), (.frameOnRsv7 z toff fan, .off, 0x2515000000F),
      (.frameOff z toff fan mode, .off, 0x25150000000 + mode.toNat)],
    ∃ t, exec p.1 s = .next t ∧ t.res = .ok ∧ t.nb = 43 ∧ t.fsm = .done ∧
      t.acc.toNat = p.2.2 + 4096 * z.toNat + 256 * toff.toNat + 16 * fan.toNat ∧
      t.out.mode = portOfMode p.2.1 ∧
      t.out.fan = (match fan.toNat with
        | 4 => portOfFan .high | 3 => portOfFan .middle | 2 => portOfFan .medium | 1 => portOfFan .low
        | _ => portOfFan .auto) ∧
      t.out.temp.toNat = toff.toNat + 16 ∧ t.out.swing = 0 ∧
      t = { s with acc := t.acc, nb := t.nb, fsm := t.fsm, res := t.res, out := t.out
                   events := s.events ++ [.publishDecoded t.out] }

/-- A word whose bits 42:28 are not the signature ends with SignatureMismatch and is not published (R183, R144). That FRAME_FOREIGN is
executed as the Frame-Complete state of DECODE on its word, with no pulse received, NB set to 43 and nothing outside the Decoder
changed, is the model's choice (notes/assumptions/13.md). OUT is a free value (7.md). -/
def Obligations.ForeignFrameRejected : Prop :=
  ∀ (sig : BitVec 15) (low : BitVec 28) (s : State), sig ≠ 0x2515 → ∃ t, exec (.frameForeign sig low) s = .next t ∧
    t.res = .signatureMismatch ∧ t.nb = 43 ∧ t.fsm = .failed ∧ t.acc = sig ++ low ∧
    t = { s with acc := t.acc, nb := t.nb, fsm := t.fsm, res := t.res, out := t.out, draws := t.draws }

/-- R74: bits 27:12 are written as 0 and are not examined: two words that differ in nothing else end the same way, and one with the
signature is valid. The second and third clause speak of a received word through its FRAME row, whose execution as the last stage of
DECODE is the model's choice (notes/assumptions/13.md). -/
def Obligations.UncheckedBitsIgnored : Prop :=
  (∀ (mode : Mode) (fan : Fan) (temp : BitVec 16) (mb newmb : ModeCode) (word : ProtocolWord) (s : State),
    exec (.encode mode fan temp mb) s = .next { s with ret := .encode word newmb } → word.extractLsb' 12 16 = 0) ∧
  (∀ (word : ProtocolWord) (s t : State), word.extractLsb' 28 15 = 0x2515 → exec (decodeFrame word) s = .next t →
    t.res = .ok) ∧
  ∀ (a b : ProtocolWord) (s t u : State), a &&& 0x7FFF0000FFF = b &&& 0x7FFF0000FFF →
    exec (decodeFrame a) s = .next t → exec (decodeFrame b) s = .next u → { t with acc := u.acc } = u

/-- R184: raising a frame error writes RES, FSM and OUT, and nothing else; there is nothing to return to. OUT is a free value
(notes/assumptions/7.md), of which only swing is known. -/
def Obligations.RaiseWritesTheResultOnly : Prop :=
  ∀ (e : Res) (s : State), (raise e s).res = e ∧ (raise e s).fsm = .failed ∧ (raise e s).out.swing = 0 ∧
    { raise e s with res := s.res, fsm := s.fsm, out := s.out, draws := s.draws } = s

/-- R145: the transition table, line by line, by the symbols the Decoder tries. That a symbol has a receiving side is the model's
reading (notes/assumptions/11.md). -/
def Obligations.ReceivedSymbolsFollowTheTable : Prop :=
  ∀ s : State, Ready s →
    (∃ t, exec (.symHeader .rx) s = .next t ∧ t.acc = 0 ∧ t.nb = 0 ∧
      (match s.rx.buf.head? with
       | some q => if pulseMatches s.cfg.tolerance s.tp.hm s.tp.hs q then t.fsm = .expectBit ∧ t.rx.cur = 1 ∧ t.res = s.res
                   else t.fsm = .failed ∧ t.rx.cur = 0 ∧ t.res = .headerMismatch
       | none => t.fsm = .failed ∧ t.rx.cur = 0 ∧ t.res = .headerMismatch)) ∧
    (s.fsm = .expectBit → s.nb.toNat < 43 →
      (∃ t, exec (.symBit1 .rx) s = .next t ∧
        if rxAnswer s.cfg.tolerance s.tp.bm s.tp.os s.rx then
          t.acc = (s.acc >>> 1) ||| 0x40000000000 ∧ t.nb.toNat = s.nb.toNat + 1 ∧ t.rx.cur = s.rx.cur + 1 ∧
          t.fsm = (if t.nb = 43 then .frameComplete else .expectBit) ∧ t.res = s.res
        else t = { s with events := s.events ++ [.rxMatch s.tp.bm s.tp.os false] }) ∧
      (∃ t, exec (.symBit0 .rx) s = .next t ∧ t.rx.buf = s.rx.buf ∧
        if rxAnswer s.cfg.tolerance s.tp.bm s.tp.zs s.rx then
          t.acc = s.acc >>> 1 ∧ t.nb.toNat = s.nb.toNat + 1 ∧ t.rx.cur = s.rx.cur + 1 ∧
          t.fsm = (if t.nb = 43 then .frameComplete else .expectBit) ∧ t.res = s.res
        else t.acc = s.acc ∧ t.nb = s.nb ∧ t.rx.cur = s.rx.cur ∧ t.fsm = .failed ∧ t.res = .truncatedFrame)) ∧
    (s.fsm ≠ .expectBit → exec (.symBit1 .rx) s = .next s ∧ exec (.symBit0 .rx) s = .next s) ∧
    exec (.symTrail .rx) s = .next s

/-- R145, R130: DECODE is its transition table run symbol by symbol. The receiving side of a symbol and the
frame class of ACC as the last stage, run as operations, are the model's choices (notes/assumptions/11.md, 13.md). -/
def Obligations.DecodeIsItsSymbols : Prop :=
  ∀ s : State, Ready s → ∃ t, exec .decode s = .next t ∧ decodeBySymbols s = .next t

/-- R146: the round-trip law with its two premises: the frame of an encoded state, followed by anything, decodes to that state: the
mode if it is an on-mode and Off otherwise, the fan speed if it is recognized and Auto otherwise, the rounded and clamped
temperature. -/
def Obligations.RoundTripLaw : Prop :=
  ∀ (mode : Mode) (fan : Fan) (temp : BitVec 16) (mb : ModeCode) (word : ProtocolWord) (newmb : ModeCode)
    (rest : List Pulse) (s : State), Ready s → MatchRefl s.cfg.tolerance → Distinct s.cfg.tolerance s.tp →
    exec (.encode mode fan temp mb) s = .next { s with ret := .encode word newmb } →
    s.rx.buf = framePulses s.tp word ++ rest →
    ∃ t, exec .decode s = .next t ∧ t.res = .ok ∧ t.nb = 43 ∧ t.acc = word ∧ t.rx.cur = 44 ∧
      t.out.mode = (if (onCode mode).isSome then portOfMode mode else portOfMode .off) ∧
      t.out.fan = (match fan with
        | .unrecognized5 | .unrecognized6 | .unrecognized7 => portOfFan .auto
        | f => portOfFan f) ∧
      t.out.temp.toNat = (toffOf word).toNat + 16 ∧ t.out.swing = 0 ∧
      (∀ n : Nat, 16 ≤ n → n ≤ 30 → temp = BitVec.ofNat 16 (256 * n) → t.out.temp.toNat = n)

/-- R146 over the air: what a TRANSMIT appended, received as its pairs and followed by anything, decodes to the state sent: the mode if
it is an on-mode and Off otherwise, the fan speed if it is recognized and Auto otherwise, the temperature rounded and clamped, which
is the temperature itself where it is whole and in 16..30; and MB stays what the TRANSMIT left. -/
def Obligations.LoopBackLaw : Prop :=
  ∀ (mode : Mode) (fan : Fan) (temp : BitVec 16) (rest : List Pulse) (s : State), Ready s →
    MatchRefl s.cfg.tolerance → Distinct s.cfg.tolerance s.tp → ∃ t u,
      exec (.transmit mode fan temp) s = .next t ∧
      exec .decode (capture (pairsOfFrame t.tx.frame ++ rest) t) = .next u ∧
      u.res = .ok ∧ u.acc = t.w ∧ u.mb = t.mb ∧ u.out = unpackWord t.w ∧ u.rx.cur = 44 ∧
      u.out.mode = (if (onCode mode).isSome then portOfMode mode else portOfMode .off) ∧
      u.out.fan = (match fan with
        | .unrecognized5 | .unrecognized6 | .unrecognized7 => portOfFan .auto
        | f => portOfFan f) ∧
      (u.out.temp.toNat : Int) = max 16 (min 30 (roundTo s.cfg.tie temp.toInt)) ∧ u.out.swing = 0 ∧
      (∀ n : Nat, 16 ≤ n → n ≤ 30 → temp = BitVec.ofNat 16 (256 * n) → u.out.temp.toNat = n) ∧
      u.events = t.events ++ u.events.drop t.events.length ∧
      (u.events.drop t.events.length).countP isPublish = 1

/-- R206: where the receiver takes a zero-space for the one-space, every bit of a frame reads as 1 and the signature check fails. -/
def Obligations.InseparableSpacesReadOnes : Prop :=
  ∀ (word : ProtocolWord) (rest : List Pulse) (s : State), Ready s → MatchRefl s.cfg.tolerance →
    toleranceMatches s.cfg.tolerance s.tp.os s.tp.zs = true → s.rx.buf = framePulses s.tp word ++ rest →
    ∃ t, exec .decode s = .next t ∧ t.acc = BitVec.allOnes 43 ∧ t.res = .signatureMismatch ∧ t.nb = 43

/-- R147: pairs after the 43rd bit pair are neither examined nor consumed. -/
def Obligations.PairsAfterTheFrameIgnored : Prop :=
  ∀ (s t : State) (extra : List Pulse), 44 ≤ s.rx.buf.length → exec .decode s = .next t →
    exec .decode { s with rx := { s.rx with buf := s.rx.buf ++ extra } } =
      .next { t with rx := { t.rx with buf := t.rx.buf ++ extra } }

/-! ### Encodings (30_encoding.md) -/

/-- R78, R71, R60: every well-formed operation decodes from what it is written as. -/
def Obligations.DecodeEncodeAgree : Prop :=
  ∀ i : Instr, i.wf = true → decode (encode i) = .ok i

/-- R71: every 43-bit word is of exactly one frame class, which is written as that word. -/
def Obligations.EveryWordHasOneFrameClass : Prop :=
  ∀ word : ProtocolWord, (decodeFrame word).wf = true ∧ encode (decodeFrame word) = .frame word ∧
    ∀ i : Instr, i.wf = true → encode i = .frame word → i = decodeFrame word

/-- R78, R71: a few operations, their bits written out from the spec. -/
def Obligations.WrittenOutWordsDecode : Prop :=
  decode (.command { cmd := 0b000 }) = .ok .nop ∧
  decode (.command { cmd := 0b001, tpIdx := 0b100, tpWdata := 0x00000230 }) = .ok (.wrtp 4 560) ∧
  decode (.command { cmd := 0b010, tpIdx := 0b011 }) = .ok (.rdtp 3) ∧
  decode (.command { cmd := 0b011, modeIn := 1, fanIn := 4, tempIn := 0x1600 }) = .ok (.transmit .cool .high 5632) ∧
  decode (.command { cmd := 0b100 }) = .ok .decode ∧
  decode (.frame 0b0100101000101010000000000000000011001001001) = .ok (.frameOnCool 0 6 4) ∧
  decode (.frame 0b0100101000101010000000000000000000000010000) = .ok (.frameOff 0 0 1 0) ∧
  decode (.encoderWord 0b0100101000101010000000000000000011001001001) = .ok (.protocolWord 6 4 1 1)

/-! ### The whole machine -/

/-- R54, R10: a step takes the next thing the host does and does it whole: an operation it issues is decoded and executed. -/
def Obligations.StepRunsTheDecodedInstruction : Prop :=
  ∀ (c : Code) (i : Instr) (s : State), decode c = .ok i → step (issueNext c s) = exec i s

/-- With a silent host the codec does nothing; reset puts MB, RES and NB at 0 and TP at unspecified (R200); a receive-complete event
gives the receiver its buffer, from the first pair (R46). That a reset keeps the parameters, the receiver, the transmitter, the
host's future and the trace is the model's reading, DEDUCED (notes/assumptions/15.md). -/
def Obligations.StepOnHostEvents : Prop :=
  (∀ s : State, s.inputs = [] → step s = .next s) ∧
  (∀ s : State, ∃ t, step { s with inputs := .reset :: s.inputs } = .next t ∧ t.mb = 0 ∧ t.res = .ok ∧ t.nb = 0 ∧
    (∀ r, tpIsWritten t.tpWritten r = false) ∧ t.cfg = s.cfg ∧ t.rx = s.rx ∧ t.tx = s.tx ∧ t.inputs = s.inputs ∧
    t.events = s.events) ∧
  (∀ (s : State) (buf : List Pulse), step { s with inputs := .receive buf :: s.inputs } =
    .next { s with rx := { buf := buf, cur := 0 } })

/-- R31, R203: what reset leaves, of the values the spec gives: MB, RES and NB; no timing register counts as written, so the operations
that would read one are refused. The other values are the model's (notes/assumptions/5.md to 8.md), and so is the parameter that asks
for the refusal as the spec does (17.md). -/
def Obligations.ResetValues : Prop :=
  State.reset.mb = 0 ∧ State.reset.res = .ok ∧ State.reset.nb = 0 ∧ State.reset.cfg.unwritten = .refused ∧
  (∀ r : TpReg, tpIsWritten State.reset.tpWritten r = false) ∧
  (∀ r : TpReg, exec (.rdtp (tpIndex r)) State.reset = .refused (.tpUnwritten r)) ∧
  (∀ (mode : Mode) (fan : Fan) (temp : BitVec 16),
    exec (.transmit mode fan temp) State.reset = .refused (.tpUnwritten .hm)) ∧
  exec .decode State.reset = .refused (.tpUnwritten .hm)

/-- R203: until all five registers are written, TRANSMIT and DECODE are refused by the name of one that is not, and so is an RDTP of
one; WRTP, NOP and an RDTP of a written register always complete, so a WRTP of each with a positive value, in any order, makes a ready
machine.
The refusal stands where the model's parameter does as the rule says, as it does at reset (notes/assumptions/17.md); that EMIT is
refused with them is the model's reading (5.md). -/
def Obligations.UnwrittenProfileRefused : Prop :=
  (∀ (s : State) (mode : Mode) (fan : Fan) (temp : BitVec 16) (word : ProtocolWord) (r : TpReg), s.cfg.unwritten = .refused →
    tpIsWritten s.tpWritten r = false →
    exec (.rdtp (tpIndex r)) s = .refused (.tpUnwritten r) ∧ ∃ q : TpReg, tpIsWritten s.tpWritten q = false ∧
      exec (.transmit mode fan temp) s = .refused (.tpUnwritten q) ∧ exec .decode s = .refused (.tpUnwritten q) ∧
      exec (.emit word) s = .refused (.tpUnwritten q)) ∧
  (∀ s : State, exec .nop s = .next s ∧ ∀ r : TpReg, (∀ v, ∃ t, exec (.wrtp (tpIndex r) v) s = .next t) ∧
    (tpIsWritten s.tpWritten r = true → ∃ t, exec (.rdtp (tpIndex r)) s = .next t)) ∧
  (∀ (s : State) (writes : List (TpReg × Dur)), (∀ r : TpReg, r ∈ writes.map (·.1)) → (∀ w ∈ writes, w.2 ≠ 0) →
    ∃ t, execAll (writes.map fun w => .wrtp (tpIndex w.1) w.2) s = .next t ∧ Ready t)

/-- R207: where a timing register that may be read reads as 0, TRANSMIT, DECODE and EMIT are refused, and by the name of such a register
where all five may be read; RDTP of a register that may be read completes with what it reads as, a 0 too. A register that was written
reads as its value. That EMIT is refused with the two is the model's reading (notes/assumptions/5.md); that a register not
written may be read too, as a value drawn, where the parameter `Cfg.unwritten` is `unspecified`, is the model's choice and no part of
the rule (17.md). The wire symbols are not among the operations named here. -/
def Obligations.ZeroDurationRefused : Prop :=
  (∀ (s : State) (mode : Mode) (fan : Fan) (temp : BitVec 16) (word : ProtocolWord) (r : TpReg), tpMayRead s r = true →
    tpRead s r = 0 → ∃ x : Refusal,
      exec (.transmit mode fan temp) s = .refused x ∧ exec .decode s = .refused x ∧ exec (.emit word) s = .refused x ∧
      ((∀ q, tpMayRead s q = true) → ∃ q, x = .tpZero q ∧ tpRead s q = 0)) ∧
  (∀ (r : TpReg) (s : State), tpMayRead s r = true → ∃ t, exec (.rdtp (tpIndex r)) s = .next t ∧ t.tpRdata = tpRead s r) ∧
  (∀ (r : TpReg) (s : State), tpIsWritten s.tpWritten r = true → tpRead s r = tpGet s.tp r)

/-- R106, R187, R130: every well-formed operation but a reserved command completes where every timing register may be read and reads as
a positive duration: on a ready machine always, and on registers not yet written where the model's parameter does not refuse their
use (the model's choice, notes/assumptions/17.md). -/
def Obligations.EveryOperationCompletes : Prop :=
  (∀ (i : Instr) (s : State), Usable s → i.wf = true → isReserved i = false → ∃ t, exec i s = .next t) ∧
  (∀ s : State, Ready s → Usable s)

/-- R31, R107, R109, R130: EMIT, TRANSMIT and DECODE on registers written or not, where the use of the latter is not refused: they do
what the rules say with some profile of positive durations that agrees with the registers written, of which nothing else is said; the
registers stay. Everything an unwritten register has no part in (MB, W, the count and order of calls, the Publish) is as on a ready
machine. That they run on unwritten registers under a parameter is the model's choice (notes/assumptions/17.md). -/
def Obligations.UnwrittenRegistersReadFreely : Prop :=
  ∀ s : State, Usable s → ∃ p : TimingProfile, ReadsAs s p ∧ (∀ r, tpGet p r ≠ 0) ∧
    (∀ word : ProtocolWord, ∃ t, exec (.emit word) s = .next t ∧
      t.events = s.events ++ [.tx (.pulse p.hm p.hs)] ++
        (List.range 43).map (fun i => .tx (.pulse p.bm (if word.getLsbD i then p.os else p.zs))) ++ [.tx (.mark p.bm)] ∧
      t = { s with tx := { s.tx with frame := t.tx.frame }, events := t.events, idx := t.idx, draws := t.draws }) ∧
    (∀ (mode : Mode) (fan : Fan) (temp : BitVec 16), ∃ t, exec (.transmit mode fan temp) s = .next t ∧
      exec (.encode mode fan temp s.mb) s = .next { s with ret := .encode t.w t.mb } ∧
      t.events = s.events ++ [.tx (.begin s.cfg.carrierHz), .tx (.pulse p.hm p.hs)] ++
        (List.range 43).map (fun i => .tx (.pulse p.bm (if t.w.getLsbD i then p.os else p.zs))) ++
        [.tx (.mark p.bm), .tx .send, .publishSent mode fan temp 0] ∧
      t = { s with mb := t.mb, w := t.w, idx := t.idx, tx := t.tx, events := t.events, draws := t.draws }) ∧
    (∃ t, exec .decode s = .next t ∧
      (match decodeContract s.cfg.tolerance p s.rx.buf with
        | .ok o => t.res = .ok ∧ t.nb = 43 ∧ t.fsm = .done ∧ t.out = o
        | .error .headerMismatch => t.res = .headerMismatch ∧ t.nb = 0 ∧ t.fsm = .failed
        | .error (.truncated n) => t.res = .truncatedFrame ∧ t.nb.toNat = n ∧ n ≤ 42 ∧ t.fsm = .failed
        | .error .signatureMismatch => t.res = .signatureMismatch ∧ t.nb = 43 ∧ t.fsm = .failed) ∧
      t = { s with acc := t.acc, nb := t.nb, fsm := t.fsm, res := t.res, out := t.out
                   rx := { s.rx with cur := t.rx.cur }, events := t.events, draws := t.draws })

/-- R69, R145: the wire symbols on registers written or not, where the use of the latter is not refused: the emitted ones are the call
with some profile that agrees with the registers written, and the tried ones answer as the receiver does for it; TP stays. A symbol as
an operation, and that it runs on unwritten registers under a parameter, are the model's choices (notes/assumptions/11.md, 17.md). -/
def Obligations.SymbolsOnUnwrittenRegisters : Prop :=
  ∀ s : State, Usable s → ∃ p : TimingProfile, ReadsAs s p ∧
    (∀ q ∈ [(Instr.symHeader .tx, TxCall.pulse p.hm p.hs), (.symBit1 .tx, .pulse p.bm p.os), (.symBit0 .tx, .pulse p.bm p.zs),
        (.symTrail .tx, .mark p.bm)],
      ∃ t, exec q.1 s = .next t ∧ t.events = s.events ++ [.tx q.2] ∧
        t = { s with tx := { s.tx with frame := t.tx.frame }, events := t.events, draws := t.draws }) ∧
    (∃ t, exec (.symHeader .rx) s = .next t ∧ t.tp = s.tp ∧ t.acc = 0 ∧ t.nb = 0 ∧
      t.fsm = (if rxAnswer s.cfg.tolerance p.hm p.hs { s.rx with cur := 0 } then .expectBit else .failed)) ∧
    (s.fsm = .expectBit → s.nb.toNat < 43 →
      (∃ t, exec (.symBit1 .rx) s = .next t ∧ t.tp = s.tp ∧ t.rx.buf = s.rx.buf ∧
        if rxAnswer s.cfg.tolerance p.bm p.os s.rx then
          t.acc = (s.acc >>> 1) ||| 0x40000000000 ∧ t.nb.toNat = s.nb.toNat + 1 ∧ t.rx.cur = s.rx.cur + 1
        else t.acc = s.acc ∧ t.nb = s.nb ∧ t.rx.cur = s.rx.cur ∧ t.fsm = s.fsm) ∧
      (∃ t, exec (.symBit0 .rx) s = .next t ∧ t.tp = s.tp ∧ t.rx.buf = s.rx.buf ∧
        if rxAnswer s.cfg.tolerance p.bm p.zs s.rx then
          t.acc = s.acc >>> 1 ∧ t.nb.toNat = s.nb.toNat + 1 ∧ t.rx.cur = s.rx.cur + 1
        else t.acc = s.acc ∧ t.nb = s.nb ∧ t.rx.cur = s.rx.cur ∧ t.fsm = .failed ∧ t.res = .truncatedFrame))

/-- The invariant holds at reset. It rests on the values the model names for FSM, ACC, IDX and OUT (notes/assumptions/6.md, 7.md). -/
def Obligations.ResetMeetsTheInvariant : Prop :=
  Inv State.reset

/-- R22, R26, R27, R47, R134, R145, R180: every step keeps the invariant. -/
def Obligations.StepKeepsTheInvariant : Prop :=
  ∀ s t : State, Inv s → step s = .next t → Inv t

/-- R145, R54: an operation runs from start to end in one step, so no step leaves a DECODE open while the host issues commands only;
every DECODE ends in Done or Failed. The host's future is the model's field (notes/assumptions/2.md). -/
def Obligations.NoStepLeavesADecodeOpen : Prop :=
  ∀ s t : State, HostKeepsInterface s → NoDecodeOpen s → step s = .next t → HostKeepsInterface t ∧ NoDecodeOpen t

/-- R54: every step takes exactly one thing from the host's future, and none where the host is silent (notes/assumptions/2.md). -/
def Obligations.StepTakesOneInput : Prop :=
  ∀ s t : State, step s = .next t → t.inputs = s.inputs.tail

/-- R6, R30: no step changes the parameters. -/
def Obligations.StepKeepsTheParameters : Prop :=
  ∀ s t : State, step s = .next t → t.cfg = s.cfg

/-- R21, R22, R190: no operation but TRANSMIT writes MB, and no operation but TRANSMIT and PROTOCOLWORD writes W. PROTOCOLWORD's
part is the model's (notes/assumptions/12.md). -/
def Obligations.OnlyTransmitWritesMb : Prop :=
  ∀ (i : Instr) (s t : State), exec i s = .next t → (∀ m f v, i ≠ .transmit m f v) →
    t.mb = s.mb ∧ ((∀ o f c m, i ≠ .protocolWord o f c m) → t.w = s.w)

/-- R23, R173: no operation but WRTP writes a timing register. -/
def Obligations.OnlyWrtpWritesTheTimingProfile : Prop :=
  ∀ (i : Instr) (s t : State), exec i s = .next t → (∀ r v, i ≠ .wrtp r v) → t.tp = s.tp ∧ t.tpWritten = s.tpWritten

/-- R27, R187, R188: only the Decoder writes RES, NB, OUT, ACC and FSM, and only it moves the receiver's cursor; no operation
writes the receiver's buffer. -/
def Obligations.OnlyTheDecoderWritesResults : Prop :=
  ∀ (i : Instr) (s t : State), exec i s = .next t → t.rx.buf = s.rx.buf ∧ (isDecoders i = false →
    t.res = s.res ∧ t.nb = s.nb ∧ t.out = s.out ∧ t.acc = s.acc ∧ t.fsm = s.fsm ∧ t.rx = s.rx ∧
    ((∀ r, tpIsWritten s.tpWritten r = true) → t.draws = s.draws))

/-- R188: what is published: once per TRANSMIT, once per DECODE that ends Ok, never on a failed one, never by anything else; and no
operation takes anything back from the trace. -/
def Obligations.PublishOncePerSuccess : Prop :=
  ∀ (i : Instr) (s t : State), exec i s = .next t → ∃ es, t.events = s.events ++ es ∧
    es.countP isPublish = (match i with
      | .transmit _ _ _ => 1
      | j => if endsDecode j = true ∧ t.res = .ok then 1 else 0)

/-- R188: TRANSMIT and DECODE in either order leave the same machine, but for the order of the trace. -/
def Obligations.TransmitAndDecodeCommute : Prop :=
  ∀ (mode : Mode) (fan : Fan) (temp : BitVec 16) (s : State), Ready s → ∃ a b c d,
    exec (.transmit mode fan temp) s = .next a ∧ exec .decode a = .next b ∧
    exec .decode s = .next c ∧ exec (.transmit mode fan temp) c = .next d ∧ { b with events := d.events } = d

/-- R22, R193: nothing a receiver captures can reach MB, W or the transmitter: two machines that differ only in the Decoder's side send
the same frame. -/
def Obligations.ReceptionCannotReachTheEncoder : Prop :=
  ∀ (mode : Mode) (fan : Fan) (temp : BitVec 16) (s u c : State) (bufA bufB : List Pulse), Ready s →
    exec .decode (capture bufA s) = .next u → exec .decode (capture bufB s) = .next c → ∃ t d,
      exec (.transmit mode fan temp) u = .next t ∧ exec (.transmit mode fan temp) c = .next d ∧
      t.mb = d.mb ∧ t.w = d.w ∧ t.tx = d.tx
end

