-- ==== Sys2Proof/Laws/State.lean ====
section
/-! SUPPORT. One lemma per field per named update of the state, each true by definition. -/

namespace Sys2Proof.Machine

variable (s : State)

/-! writeTp -/
@[simp] theorem writeTp_mb (r : TpReg) (v : Dur) : (writeTp r v s).mb = s.mb := rfl
@[simp] theorem writeTp_tp (r : TpReg) (v : Dur) : (writeTp r v s).tp = tpSet s.tp r v := rfl
@[simp] theorem writeTp_w (r : TpReg) (v : Dur) : (writeTp r v s).w = s.w := rfl
@[simp] theorem writeTp_acc (r : TpReg) (v : Dur) : (writeTp r v s).acc = s.acc := rfl
@[simp] theorem writeTp_nb (r : TpReg) (v : Dur) : (writeTp r v s).nb = s.nb := rfl
@[simp] theorem writeTp_fsm (r : TpReg) (v : Dur) : (writeTp r v s).fsm = s.fsm := rfl
@[simp] theorem writeTp_idx (r : TpReg) (v : Dur) : (writeTp r v s).idx = s.idx := rfl
@[simp] theorem writeTp_res (r : TpReg) (v : Dur) : (writeTp r v s).res = s.res := rfl
@[simp] theorem writeTp_out (r : TpReg) (v : Dur) : (writeTp r v s).out = s.out := rfl
@[simp] theorem writeTp_tpRdata (r : TpReg) (v : Dur) : (writeTp r v s).tpRdata = s.tpRdata := rfl
@[simp] theorem writeTp_rx (r : TpReg) (v : Dur) : (writeTp r v s).rx = s.rx := rfl
@[simp] theorem writeTp_tx (r : TpReg) (v : Dur) : (writeTp r v s).tx = s.tx := rfl
@[simp] theorem writeTp_cfg (r : TpReg) (v : Dur) : (writeTp r v s).cfg = s.cfg := rfl
@[simp] theorem writeTp_tpWritten (r : TpReg) (v : Dur) : (writeTp r v s).tpWritten = tpMarkWritten s.tpWritten r := rfl
@[simp] theorem writeTp_inputs (r : TpReg) (v : Dur) : (writeTp r v s).inputs = s.inputs := rfl
@[simp] theorem writeTp_events (r : TpReg) (v : Dur) : (writeTp r v s).events = s.events := rfl
@[simp] theorem writeTp_ret (r : TpReg) (v : Dur) : (writeTp r v s).ret = s.ret := rfl
@[simp] theorem writeTp_draws (r : TpReg) (v : Dur) : (writeTp r v s).draws = s.draws := rfl

/-! rxAfter -/
@[simp] theorem rxAfter_mb (em es : Dur) (b : Bool) : (rxAfter em es b s).mb = s.mb := rfl
@[simp] theorem rxAfter_tp (em es : Dur) (b : Bool) : (rxAfter em es b s).tp = s.tp := rfl
@[simp] theorem rxAfter_w (em es : Dur) (b : Bool) : (rxAfter em es b s).w = s.w := rfl
@[simp] theorem rxAfter_acc (em es : Dur) (b : Bool) : (rxAfter em es b s).acc = s.acc := rfl
@[simp] theorem rxAfter_nb (em es : Dur) (b : Bool) : (rxAfter em es b s).nb = s.nb := rfl
@[simp] theorem rxAfter_fsm (em es : Dur) (b : Bool) : (rxAfter em es b s).fsm = s.fsm := rfl
@[simp] theorem rxAfter_idx (em es : Dur) (b : Bool) : (rxAfter em es b s).idx = s.idx := rfl
@[simp] theorem rxAfter_res (em es : Dur) (b : Bool) : (rxAfter em es b s).res = s.res := rfl
@[simp] theorem rxAfter_out (em es : Dur) (b : Bool) : (rxAfter em es b s).out = s.out := rfl
@[simp] theorem rxAfter_tpRdata (em es : Dur) (b : Bool) : (rxAfter em es b s).tpRdata = s.tpRdata := rfl
@[simp] theorem rxAfter_rx (em es : Dur) (b : Bool) : (rxAfter em es b s).rx = { s.rx with cur := if b then s.rx.cur + 1 else s.rx.cur } := rfl
@[simp] theorem rxAfter_tx (em es : Dur) (b : Bool) : (rxAfter em es b s).tx = s.tx := rfl
@[simp] theorem rxAfter_cfg (em es : Dur) (b : Bool) : (rxAfter em es b s).cfg = s.cfg := rfl
@[simp] theorem rxAfter_tpWritten (em es : Dur) (b : Bool) : (rxAfter em es b s).tpWritten = s.tpWritten := rfl
@[simp] theorem rxAfter_inputs (em es : Dur) (b : Bool) : (rxAfter em es b s).inputs = s.inputs := rfl
@[simp] theorem rxAfter_events (em es : Dur) (b : Bool) : (rxAfter em es b s).events = s.events ++ [.rxMatch em es b] := rfl
@[simp] theorem rxAfter_ret (em es : Dur) (b : Bool) : (rxAfter em es b s).ret = s.ret := rfl
@[simp] theorem rxAfter_draws (em es : Dur) (b : Bool) : (rxAfter em es b s).draws = s.draws := rfl

/-! capture -/
@[simp] theorem capture_mb (buf : List Pulse) : (capture buf s).mb = s.mb := rfl
@[simp] theorem capture_tp (buf : List Pulse) : (capture buf s).tp = s.tp := rfl
@[simp] theorem capture_w (buf : List Pulse) : (capture buf s).w = s.w := rfl
@[simp] theorem capture_acc (buf : List Pulse) : (capture buf s).acc = s.acc := rfl
@[simp] theorem capture_nb (buf : List Pulse) : (capture buf s).nb = s.nb := rfl
@[simp] theorem capture_fsm (buf : List Pulse) : (capture buf s).fsm = s.fsm := rfl
@[simp] theorem capture_idx (buf : List Pulse) : (capture buf s).idx = s.idx := rfl
@[simp] theorem capture_res (buf : List Pulse) : (capture buf s).res = s.res := rfl
@[simp] theorem capture_out (buf : List Pulse) : (capture buf s).out = s.out := rfl
@[simp] theorem capture_tpRdata (buf : List Pulse) : (capture buf s).tpRdata = s.tpRdata := rfl
@[simp] theorem capture_rx (buf : List Pulse) : (capture buf s).rx = { buf := buf, cur := 0 } := rfl
@[simp] theorem capture_tx (buf : List Pulse) : (capture buf s).tx = s.tx := rfl
@[simp] theorem capture_cfg (buf : List Pulse) : (capture buf s).cfg = s.cfg := rfl
@[simp] theorem capture_tpWritten (buf : List Pulse) : (capture buf s).tpWritten = s.tpWritten := rfl
@[simp] theorem capture_inputs (buf : List Pulse) : (capture buf s).inputs = s.inputs := rfl
@[simp] theorem capture_events (buf : List Pulse) : (capture buf s).events = s.events := rfl
@[simp] theorem capture_ret (buf : List Pulse) : (capture buf s).ret = s.ret := rfl
@[simp] theorem capture_draws (buf : List Pulse) : (capture buf s).draws = s.draws := rfl

/-! txCall -/
@[simp] theorem txCall_mb (c : TxCall) : (txCall c s).mb = s.mb := rfl
@[simp] theorem txCall_tp (c : TxCall) : (txCall c s).tp = s.tp := rfl
@[simp] theorem txCall_w (c : TxCall) : (txCall c s).w = s.w := rfl
@[simp] theorem txCall_acc (c : TxCall) : (txCall c s).acc = s.acc := rfl
@[simp] theorem txCall_nb (c : TxCall) : (txCall c s).nb = s.nb := rfl
@[simp] theorem txCall_fsm (c : TxCall) : (txCall c s).fsm = s.fsm := rfl
@[simp] theorem txCall_idx (c : TxCall) : (txCall c s).idx = s.idx := rfl
@[simp] theorem txCall_res (c : TxCall) : (txCall c s).res = s.res := rfl
@[simp] theorem txCall_out (c : TxCall) : (txCall c s).out = s.out := rfl
@[simp] theorem txCall_tpRdata (c : TxCall) : (txCall c s).tpRdata = s.tpRdata := rfl
@[simp] theorem txCall_rx (c : TxCall) : (txCall c s).rx = s.rx := rfl
@[simp] theorem txCall_tx (c : TxCall) : (txCall c s).tx = txApply c s.tx := rfl
@[simp] theorem txCall_cfg (c : TxCall) : (txCall c s).cfg = s.cfg := rfl
@[simp] theorem txCall_tpWritten (c : TxCall) : (txCall c s).tpWritten = s.tpWritten := rfl
@[simp] theorem txCall_inputs (c : TxCall) : (txCall c s).inputs = s.inputs := rfl
@[simp] theorem txCall_events (c : TxCall) : (txCall c s).events = s.events ++ [.tx c] := rfl
@[simp] theorem txCall_ret (c : TxCall) : (txCall c s).ret = s.ret := rfl
@[simp] theorem txCall_draws (c : TxCall) : (txCall c s).draws = s.draws := rfl

/-! publish -/
@[simp] theorem publish_mb (e : Event) : (publish e s).mb = s.mb := rfl
@[simp] theorem publish_tp (e : Event) : (publish e s).tp = s.tp := rfl
@[simp] theorem publish_w (e : Event) : (publish e s).w = s.w := rfl
@[simp] theorem publish_acc (e : Event) : (publish e s).acc = s.acc := rfl
@[simp] theorem publish_nb (e : Event) : (publish e s).nb = s.nb := rfl
@[simp] theorem publish_fsm (e : Event) : (publish e s).fsm = s.fsm := rfl
@[simp] theorem publish_idx (e : Event) : (publish e s).idx = s.idx := rfl
@[simp] theorem publish_res (e : Event) : (publish e s).res = s.res := rfl
@[simp] theorem publish_out (e : Event) : (publish e s).out = s.out := rfl
@[simp] theorem publish_tpRdata (e : Event) : (publish e s).tpRdata = s.tpRdata := rfl
@[simp] theorem publish_rx (e : Event) : (publish e s).rx = s.rx := rfl
@[simp] theorem publish_tx (e : Event) : (publish e s).tx = s.tx := rfl
@[simp] theorem publish_cfg (e : Event) : (publish e s).cfg = s.cfg := rfl
@[simp] theorem publish_tpWritten (e : Event) : (publish e s).tpWritten = s.tpWritten := rfl
@[simp] theorem publish_inputs (e : Event) : (publish e s).inputs = s.inputs := rfl
@[simp] theorem publish_events (e : Event) : (publish e s).events = s.events ++ [e] := rfl
@[simp] theorem publish_ret (e : Event) : (publish e s).ret = s.ret := rfl
@[simp] theorem publish_draws (e : Event) : (publish e s).draws = s.draws := rfl

/-! raise -/
@[simp] theorem raise_mb (e : Res) : (raise e s).mb = s.mb := rfl
@[simp] theorem raise_tp (e : Res) : (raise e s).tp = s.tp := rfl
@[simp] theorem raise_w (e : Res) : (raise e s).w = s.w := rfl
@[simp] theorem raise_acc (e : Res) : (raise e s).acc = s.acc := rfl
@[simp] theorem raise_nb (e : Res) : (raise e s).nb = s.nb := rfl
@[simp] theorem raise_fsm (e : Res) : (raise e s).fsm = .failed := rfl
@[simp] theorem raise_idx (e : Res) : (raise e s).idx = s.idx := rfl
@[simp] theorem raise_res (e : Res) : (raise e s).res = e := rfl
@[simp] theorem raise_out (e : Res) : (raise e s).out = outOfFree (Config.freeOut s.draws) := rfl
@[simp] theorem raise_tpRdata (e : Res) : (raise e s).tpRdata = s.tpRdata := rfl
@[simp] theorem raise_rx (e : Res) : (raise e s).rx = s.rx := rfl
@[simp] theorem raise_tx (e : Res) : (raise e s).tx = s.tx := rfl
@[simp] theorem raise_cfg (e : Res) : (raise e s).cfg = s.cfg := rfl
@[simp] theorem raise_tpWritten (e : Res) : (raise e s).tpWritten = s.tpWritten := rfl
@[simp] theorem raise_inputs (e : Res) : (raise e s).inputs = s.inputs := rfl
@[simp] theorem raise_events (e : Res) : (raise e s).events = s.events := rfl
@[simp] theorem raise_ret (e : Res) : (raise e s).ret = s.ret := rfl
@[simp] theorem raise_draws (e : Res) : (raise e s).draws = s.draws + 1 := rfl

/-! succeed -/
@[simp] theorem succeed_mb (o : Out) : (succeed o s).mb = s.mb := rfl
@[simp] theorem succeed_tp (o : Out) : (succeed o s).tp = s.tp := rfl
@[simp] theorem succeed_w (o : Out) : (succeed o s).w = s.w := rfl
@[simp] theorem succeed_acc (o : Out) : (succeed o s).acc = s.acc := rfl
@[simp] theorem succeed_nb (o : Out) : (succeed o s).nb = s.nb := rfl
@[simp] theorem succeed_fsm (o : Out) : (succeed o s).fsm = .done := rfl
@[simp] theorem succeed_idx (o : Out) : (succeed o s).idx = s.idx := rfl
@[simp] theorem succeed_res (o : Out) : (succeed o s).res = .ok := rfl
@[simp] theorem succeed_out (o : Out) : (succeed o s).out = o := rfl
@[simp] theorem succeed_tpRdata (o : Out) : (succeed o s).tpRdata = s.tpRdata := rfl
@[simp] theorem succeed_rx (o : Out) : (succeed o s).rx = s.rx := rfl
@[simp] theorem succeed_tx (o : Out) : (succeed o s).tx = s.tx := rfl
@[simp] theorem succeed_cfg (o : Out) : (succeed o s).cfg = s.cfg := rfl
@[simp] theorem succeed_tpWritten (o : Out) : (succeed o s).tpWritten = s.tpWritten := rfl
@[simp] theorem succeed_inputs (o : Out) : (succeed o s).inputs = s.inputs := rfl
@[simp] theorem succeed_events (o : Out) : (succeed o s).events = s.events ++ [.publishDecoded o] := rfl
@[simp] theorem succeed_ret (o : Out) : (succeed o s).ret = s.ret := rfl
@[simp] theorem succeed_draws (o : Out) : (succeed o s).draws = s.draws := rfl

/-! startDecode -/
@[simp] theorem startDecode_mb : (startDecode s).mb = s.mb := rfl
@[simp] theorem startDecode_tp : (startDecode s).tp = s.tp := rfl
@[simp] theorem startDecode_w : (startDecode s).w = s.w := rfl
@[simp] theorem startDecode_acc : (startDecode s).acc = 0 := rfl
@[simp] theorem startDecode_nb : (startDecode s).nb = 0 := rfl
@[simp] theorem startDecode_fsm : (startDecode s).fsm = .expectHeader := rfl
@[simp] theorem startDecode_idx : (startDecode s).idx = s.idx := rfl
@[simp] theorem startDecode_res : (startDecode s).res = s.res := rfl
@[simp] theorem startDecode_out : (startDecode s).out = s.out := rfl
@[simp] theorem startDecode_tpRdata : (startDecode s).tpRdata = s.tpRdata := rfl
@[simp] theorem startDecode_rx : (startDecode s).rx = { s.rx with cur := 0 } := rfl
@[simp] theorem startDecode_tx : (startDecode s).tx = s.tx := rfl
@[simp] theorem startDecode_cfg : (startDecode s).cfg = s.cfg := rfl
@[simp] theorem startDecode_tpWritten : (startDecode s).tpWritten = s.tpWritten := rfl
@[simp] theorem startDecode_inputs : (startDecode s).inputs = s.inputs := rfl
@[simp] theorem startDecode_events : (startDecode s).events = s.events := rfl
@[simp] theorem startDecode_ret : (startDecode s).ret = s.ret := rfl
@[simp] theorem startDecode_draws : (startDecode s).draws = s.draws := rfl

/-! headerMatched -/
@[simp] theorem headerMatched_mb : (headerMatched s).mb = s.mb := rfl
@[simp] theorem headerMatched_tp : (headerMatched s).tp = s.tp := rfl
@[simp] theorem headerMatched_w : (headerMatched s).w = s.w := rfl
@[simp] theorem headerMatched_acc : (headerMatched s).acc = s.acc := rfl
@[simp] theorem headerMatched_nb : (headerMatched s).nb = s.nb := rfl
@[simp] theorem headerMatched_fsm : (headerMatched s).fsm = .expectBit := rfl
@[simp] theorem headerMatched_idx : (headerMatched s).idx = s.idx := rfl
@[simp] theorem headerMatched_res : (headerMatched s).res = s.res := rfl
@[simp] theorem headerMatched_out : (headerMatched s).out = s.out := rfl
@[simp] theorem headerMatched_tpRdata : (headerMatched s).tpRdata = s.tpRdata := rfl
@[simp] theorem headerMatched_rx : (headerMatched s).rx = s.rx := rfl
@[simp] theorem headerMatched_tx : (headerMatched s).tx = s.tx := rfl
@[simp] theorem headerMatched_cfg : (headerMatched s).cfg = s.cfg := rfl
@[simp] theorem headerMatched_tpWritten : (headerMatched s).tpWritten = s.tpWritten := rfl
@[simp] theorem headerMatched_inputs : (headerMatched s).inputs = s.inputs := rfl
@[simp] theorem headerMatched_events : (headerMatched s).events = s.events := rfl
@[simp] theorem headerMatched_ret : (headerMatched s).ret = s.ret := rfl
@[simp] theorem headerMatched_draws : (headerMatched s).draws = s.draws := rfl

/-! shiftIn -/
@[simp] theorem shiftIn_mb (b : Bool) : (shiftIn b s).mb = s.mb := rfl
@[simp] theorem shiftIn_tp (b : Bool) : (shiftIn b s).tp = s.tp := rfl
@[simp] theorem shiftIn_w (b : Bool) : (shiftIn b s).w = s.w := rfl
@[simp] theorem shiftIn_acc (b : Bool) : (shiftIn b s).acc = shiftAcc b s.acc := rfl
@[simp] theorem shiftIn_nb (b : Bool) : (shiftIn b s).nb = s.nb + 1 := rfl
@[simp] theorem shiftIn_fsm (b : Bool) : (shiftIn b s).fsm = if s.nb + 1 = 43 then .frameComplete else .expectBit := rfl
@[simp] theorem shiftIn_idx (b : Bool) : (shiftIn b s).idx = s.idx := rfl
@[simp] theorem shiftIn_res (b : Bool) : (shiftIn b s).res = s.res := rfl
@[simp] theorem shiftIn_out (b : Bool) : (shiftIn b s).out = s.out := rfl
@[simp] theorem shiftIn_tpRdata (b : Bool) : (shiftIn b s).tpRdata = s.tpRdata := rfl
@[simp] theorem shiftIn_rx (b : Bool) : (shiftIn b s).rx = s.rx := rfl
@[simp] theorem shiftIn_tx (b : Bool) : (shiftIn b s).tx = s.tx := rfl
@[simp] theorem shiftIn_cfg (b : Bool) : (shiftIn b s).cfg = s.cfg := rfl
@[simp] theorem shiftIn_tpWritten (b : Bool) : (shiftIn b s).tpWritten = s.tpWritten := rfl
@[simp] theorem shiftIn_inputs (b : Bool) : (shiftIn b s).inputs = s.inputs := rfl
@[simp] theorem shiftIn_events (b : Bool) : (shiftIn b s).events = s.events := rfl
@[simp] theorem shiftIn_ret (b : Bool) : (shiftIn b s).ret = s.ret := rfl
@[simp] theorem shiftIn_draws (b : Bool) : (shiftIn b s).draws = s.draws := rfl

/-! completeFrame -/
@[simp] theorem completeFrame_mb (word : ProtocolWord) : (completeFrame word s).mb = s.mb := rfl
@[simp] theorem completeFrame_tp (word : ProtocolWord) : (completeFrame word s).tp = s.tp := rfl
@[simp] theorem completeFrame_w (word : ProtocolWord) : (completeFrame word s).w = s.w := rfl
@[simp] theorem completeFrame_acc (word : ProtocolWord) : (completeFrame word s).acc = word := rfl
@[simp] theorem completeFrame_nb (word : ProtocolWord) : (completeFrame word s).nb = 43 := rfl
@[simp] theorem completeFrame_fsm (word : ProtocolWord) : (completeFrame word s).fsm = .frameComplete := rfl
@[simp] theorem completeFrame_idx (word : ProtocolWord) : (completeFrame word s).idx = s.idx := rfl
@[simp] theorem completeFrame_res (word : ProtocolWord) : (completeFrame word s).res = s.res := rfl
@[simp] theorem completeFrame_out (word : ProtocolWord) : (completeFrame word s).out = s.out := rfl
@[simp] theorem completeFrame_tpRdata (word : ProtocolWord) : (completeFrame word s).tpRdata = s.tpRdata := rfl
@[simp] theorem completeFrame_rx (word : ProtocolWord) : (completeFrame word s).rx = s.rx := rfl
@[simp] theorem completeFrame_tx (word : ProtocolWord) : (completeFrame word s).tx = s.tx := rfl
@[simp] theorem completeFrame_cfg (word : ProtocolWord) : (completeFrame word s).cfg = s.cfg := rfl
@[simp] theorem completeFrame_tpWritten (word : ProtocolWord) : (completeFrame word s).tpWritten = s.tpWritten := rfl
@[simp] theorem completeFrame_inputs (word : ProtocolWord) : (completeFrame word s).inputs = s.inputs := rfl
@[simp] theorem completeFrame_events (word : ProtocolWord) : (completeFrame word s).events = s.events := rfl
@[simp] theorem completeFrame_ret (word : ProtocolWord) : (completeFrame word s).ret = s.ret := rfl
@[simp] theorem completeFrame_draws (word : ProtocolWord) : (completeFrame word s).draws = s.draws := rfl

/-! setMb -/
@[simp] theorem setMb_mb (m : ModeCode) : (setMb m s).mb = m := rfl
@[simp] theorem setMb_tp (m : ModeCode) : (setMb m s).tp = s.tp := rfl
@[simp] theorem setMb_w (m : ModeCode) : (setMb m s).w = s.w := rfl
@[simp] theorem setMb_acc (m : ModeCode) : (setMb m s).acc = s.acc := rfl
@[simp] theorem setMb_nb (m : ModeCode) : (setMb m s).nb = s.nb := rfl
@[simp] theorem setMb_fsm (m : ModeCode) : (setMb m s).fsm = s.fsm := rfl
@[simp] theorem setMb_idx (m : ModeCode) : (setMb m s).idx = s.idx := rfl
@[simp] theorem setMb_res (m : ModeCode) : (setMb m s).res = s.res := rfl
@[simp] theorem setMb_out (m : ModeCode) : (setMb m s).out = s.out := rfl
@[simp] theorem setMb_tpRdata (m : ModeCode) : (setMb m s).tpRdata = s.tpRdata := rfl
@[simp] theorem setMb_rx (m : ModeCode) : (setMb m s).rx = s.rx := rfl
@[simp] theorem setMb_tx (m : ModeCode) : (setMb m s).tx = s.tx := rfl
@[simp] theorem setMb_cfg (m : ModeCode) : (setMb m s).cfg = s.cfg := rfl
@[simp] theorem setMb_tpWritten (m : ModeCode) : (setMb m s).tpWritten = s.tpWritten := rfl
@[simp] theorem setMb_inputs (m : ModeCode) : (setMb m s).inputs = s.inputs := rfl
@[simp] theorem setMb_events (m : ModeCode) : (setMb m s).events = s.events := rfl
@[simp] theorem setMb_ret (m : ModeCode) : (setMb m s).ret = s.ret := rfl
@[simp] theorem setMb_draws (m : ModeCode) : (setMb m s).draws = s.draws := rfl

/-! setW -/
@[simp] theorem setW_mb (word : ProtocolWord) : (setW word s).mb = s.mb := rfl
@[simp] theorem setW_tp (word : ProtocolWord) : (setW word s).tp = s.tp := rfl
@[simp] theorem setW_w (word : ProtocolWord) : (setW word s).w = word := rfl
@[simp] theorem setW_acc (word : ProtocolWord) : (setW word s).acc = s.acc := rfl
@[simp] theorem setW_nb (word : ProtocolWord) : (setW word s).nb = s.nb := rfl
@[simp] theorem setW_fsm (word : ProtocolWord) : (setW word s).fsm = s.fsm := rfl
@[simp] theorem setW_idx (word : ProtocolWord) : (setW word s).idx = s.idx := rfl
@[simp] theorem setW_res (word : ProtocolWord) : (setW word s).res = s.res := rfl
@[simp] theorem setW_out (word : ProtocolWord) : (setW word s).out = s.out := rfl
@[simp] theorem setW_tpRdata (word : ProtocolWord) : (setW word s).tpRdata = s.tpRdata := rfl
@[simp] theorem setW_rx (word : ProtocolWord) : (setW word s).rx = s.rx := rfl
@[simp] theorem setW_tx (word : ProtocolWord) : (setW word s).tx = s.tx := rfl
@[simp] theorem setW_cfg (word : ProtocolWord) : (setW word s).cfg = s.cfg := rfl
@[simp] theorem setW_tpWritten (word : ProtocolWord) : (setW word s).tpWritten = s.tpWritten := rfl
@[simp] theorem setW_inputs (word : ProtocolWord) : (setW word s).inputs = s.inputs := rfl
@[simp] theorem setW_events (word : ProtocolWord) : (setW word s).events = s.events := rfl
@[simp] theorem setW_ret (word : ProtocolWord) : (setW word s).ret = s.ret := rfl
@[simp] theorem setW_draws (word : ProtocolWord) : (setW word s).draws = s.draws := rfl

/-! setIdx -/
@[simp] theorem setIdx_mb (i : BitVec 6) : (setIdx i s).mb = s.mb := rfl
@[simp] theorem setIdx_tp (i : BitVec 6) : (setIdx i s).tp = s.tp := rfl
@[simp] theorem setIdx_w (i : BitVec 6) : (setIdx i s).w = s.w := rfl
@[simp] theorem setIdx_acc (i : BitVec 6) : (setIdx i s).acc = s.acc := rfl
@[simp] theorem setIdx_nb (i : BitVec 6) : (setIdx i s).nb = s.nb := rfl
@[simp] theorem setIdx_fsm (i : BitVec 6) : (setIdx i s).fsm = s.fsm := rfl
@[simp] theorem setIdx_idx (i : BitVec 6) : (setIdx i s).idx = i := rfl
@[simp] theorem setIdx_res (i : BitVec 6) : (setIdx i s).res = s.res := rfl
@[simp] theorem setIdx_out (i : BitVec 6) : (setIdx i s).out = s.out := rfl
@[simp] theorem setIdx_tpRdata (i : BitVec 6) : (setIdx i s).tpRdata = s.tpRdata := rfl
@[simp] theorem setIdx_rx (i : BitVec 6) : (setIdx i s).rx = s.rx := rfl
@[simp] theorem setIdx_tx (i : BitVec 6) : (setIdx i s).tx = s.tx := rfl
@[simp] theorem setIdx_cfg (i : BitVec 6) : (setIdx i s).cfg = s.cfg := rfl
@[simp] theorem setIdx_tpWritten (i : BitVec 6) : (setIdx i s).tpWritten = s.tpWritten := rfl
@[simp] theorem setIdx_inputs (i : BitVec 6) : (setIdx i s).inputs = s.inputs := rfl
@[simp] theorem setIdx_events (i : BitVec 6) : (setIdx i s).events = s.events := rfl
@[simp] theorem setIdx_ret (i : BitVec 6) : (setIdx i s).ret = s.ret := rfl
@[simp] theorem setIdx_draws (i : BitVec 6) : (setIdx i s).draws = s.draws := rfl

/-! setTpRdata -/
@[simp] theorem setTpRdata_mb (v : Dur) : (setTpRdata v s).mb = s.mb := rfl
@[simp] theorem setTpRdata_tp (v : Dur) : (setTpRdata v s).tp = s.tp := rfl
@[simp] theorem setTpRdata_w (v : Dur) : (setTpRdata v s).w = s.w := rfl
@[simp] theorem setTpRdata_acc (v : Dur) : (setTpRdata v s).acc = s.acc := rfl
@[simp] theorem setTpRdata_nb (v : Dur) : (setTpRdata v s).nb = s.nb := rfl
@[simp] theorem setTpRdata_fsm (v : Dur) : (setTpRdata v s).fsm = s.fsm := rfl
@[simp] theorem setTpRdata_idx (v : Dur) : (setTpRdata v s).idx = s.idx := rfl
@[simp] theorem setTpRdata_res (v : Dur) : (setTpRdata v s).res = s.res := rfl
@[simp] theorem setTpRdata_out (v : Dur) : (setTpRdata v s).out = s.out := rfl
@[simp] theorem setTpRdata_tpRdata (v : Dur) : (setTpRdata v s).tpRdata = v := rfl
@[simp] theorem setTpRdata_rx (v : Dur) : (setTpRdata v s).rx = s.rx := rfl
@[simp] theorem setTpRdata_tx (v : Dur) : (setTpRdata v s).tx = s.tx := rfl
@[simp] theorem setTpRdata_cfg (v : Dur) : (setTpRdata v s).cfg = s.cfg := rfl
@[simp] theorem setTpRdata_tpWritten (v : Dur) : (setTpRdata v s).tpWritten = s.tpWritten := rfl
@[simp] theorem setTpRdata_inputs (v : Dur) : (setTpRdata v s).inputs = s.inputs := rfl
@[simp] theorem setTpRdata_events (v : Dur) : (setTpRdata v s).events = s.events := rfl
@[simp] theorem setTpRdata_ret (v : Dur) : (setTpRdata v s).ret = s.ret := rfl
@[simp] theorem setTpRdata_draws (v : Dur) : (setTpRdata v s).draws = s.draws := rfl

/-! setRet -/
@[simp] theorem setRet_mb (r : SubResult) : (setRet r s).mb = s.mb := rfl
@[simp] theorem setRet_tp (r : SubResult) : (setRet r s).tp = s.tp := rfl
@[simp] theorem setRet_w (r : SubResult) : (setRet r s).w = s.w := rfl
@[simp] theorem setRet_acc (r : SubResult) : (setRet r s).acc = s.acc := rfl
@[simp] theorem setRet_nb (r : SubResult) : (setRet r s).nb = s.nb := rfl
@[simp] theorem setRet_fsm (r : SubResult) : (setRet r s).fsm = s.fsm := rfl
@[simp] theorem setRet_idx (r : SubResult) : (setRet r s).idx = s.idx := rfl
@[simp] theorem setRet_res (r : SubResult) : (setRet r s).res = s.res := rfl
@[simp] theorem setRet_out (r : SubResult) : (setRet r s).out = s.out := rfl
@[simp] theorem setRet_tpRdata (r : SubResult) : (setRet r s).tpRdata = s.tpRdata := rfl
@[simp] theorem setRet_rx (r : SubResult) : (setRet r s).rx = s.rx := rfl
@[simp] theorem setRet_tx (r : SubResult) : (setRet r s).tx = s.tx := rfl
@[simp] theorem setRet_cfg (r : SubResult) : (setRet r s).cfg = s.cfg := rfl
@[simp] theorem setRet_tpWritten (r : SubResult) : (setRet r s).tpWritten = s.tpWritten := rfl
@[simp] theorem setRet_inputs (r : SubResult) : (setRet r s).inputs = s.inputs := rfl
@[simp] theorem setRet_events (r : SubResult) : (setRet r s).events = s.events := rfl
@[simp] theorem setRet_ret (r : SubResult) : (setRet r s).ret = r := rfl
@[simp] theorem setRet_draws (r : SubResult) : (setRet r s).draws = s.draws := rfl

/-! doReset -/
@[simp] theorem doReset_mb : (doReset s).mb = State.reset.mb := rfl
@[simp] theorem doReset_tp : (doReset s).tp = State.reset.tp := rfl
@[simp] theorem doReset_w : (doReset s).w = State.reset.w := rfl
@[simp] theorem doReset_acc : (doReset s).acc = State.reset.acc := rfl
@[simp] theorem doReset_nb : (doReset s).nb = State.reset.nb := rfl
@[simp] theorem doReset_fsm : (doReset s).fsm = State.reset.fsm := rfl
@[simp] theorem doReset_idx : (doReset s).idx = State.reset.idx := rfl
@[simp] theorem doReset_res : (doReset s).res = State.reset.res := rfl
@[simp] theorem doReset_out : (doReset s).out = State.reset.out := rfl
@[simp] theorem doReset_tpRdata : (doReset s).tpRdata = State.reset.tpRdata := rfl
@[simp] theorem doReset_rx : (doReset s).rx = s.rx := rfl
@[simp] theorem doReset_tx : (doReset s).tx = s.tx := rfl
@[simp] theorem doReset_cfg : (doReset s).cfg = s.cfg := rfl
@[simp] theorem doReset_tpWritten : (doReset s).tpWritten = State.reset.tpWritten := rfl
@[simp] theorem doReset_inputs : (doReset s).inputs = s.inputs := rfl
@[simp] theorem doReset_events : (doReset s).events = s.events := rfl
@[simp] theorem doReset_ret : (doReset s).ret = State.reset.ret := rfl
@[simp] theorem doReset_draws : (doReset s).draws = s.draws := rfl

/-! ### The output ports (30_encoding.md R77) -/

@[simp] theorem outputs_tpRdata : (outputs s).tpRdata = s.tpRdata := rfl
@[simp] theorem outputs_mbOut : (outputs s).mbOut = s.mb := rfl
@[simp] theorem outputs_nb : (outputs s).nb = s.nb := rfl
@[simp] theorem outputs_outMode : (outputs s).outMode = s.out.mode := rfl
@[simp] theorem outputs_outFan : (outputs s).outFan = s.out.fan := rfl
@[simp] theorem outputs_outTemp : (outputs s).outTemp = s.out.temp := rfl
@[simp] theorem outputs_outSwing : (outputs s).outSwing = s.out.swing := rfl
@[simp] theorem outputs_res : (outputs s).res = resCode s.res := rfl

end Sys2Proof.Machine
end

