-- ==== Sys2Proof/Laws/Words.lean ====
section
/-! SUPPORT. The fields of a word (30_encoding.md R60), one lemma per field; assembly, validation and the accumulator. -/

namespace Sys2Proof

variable (sig : BitVec 15) (z : BitVec 16) (toff fan : BitVec 4) (flag : BitVec 1) (mode : ModeCode)

/-- The bits of a word from its fields. -/
theorem wordOfFields_getLsbD (i : Nat) :
    (wordOfFields sig z toff fan flag mode).getLsbD i =
      if i < 3 then mode.getLsbD i else if i < 4 then flag.getLsbD (i - 3)
      else if i < 8 then fan.getLsbD (i - 4) else if i < 12 then toff.getLsbD (i - 8)
      else if i < 28 then z.getLsbD (i - 12) else sig.getLsbD (i - 28) := by
  simp only [wordOfFields, BitVec.getLsbD_cast, BitVec.getLsbD_append, Nat.sub_sub]
  split_ifs <;> first | rfl | omega

@[simp] theorem sigOf_wordOfFields : sigOf (wordOfFields sig z toff fan flag mode) = sig := by
  refine BitVec.eq_of_getLsbD_eq fun i hi => ?_
  simp only [sigOf, BitVec.getLsbD_extractLsb', hi, decide_true, Bool.true_and, wordOfFields_getLsbD]
  repeat rw [if_neg (by omega)]
  rw [Nat.add_sub_cancel_left]

@[simp] theorem uncheckedOf_wordOfFields : uncheckedOf (wordOfFields sig z toff fan flag mode) = z := by
  refine BitVec.eq_of_getLsbD_eq fun i hi => ?_
  simp only [uncheckedOf, BitVec.getLsbD_extractLsb', hi, decide_true, Bool.true_and, wordOfFields_getLsbD]
  repeat rw [if_neg (by omega)]
  rw [if_pos (by omega)]
  rw [Nat.add_sub_cancel_left]

@[simp] theorem toffOf_wordOfFields : toffOf (wordOfFields sig z toff fan flag mode) = toff := by
  refine BitVec.eq_of_getLsbD_eq fun i hi => ?_
  simp only [toffOf, BitVec.getLsbD_extractLsb', hi, decide_true, Bool.true_and, wordOfFields_getLsbD]
  repeat rw [if_neg (by omega)]
  rw [if_pos (by omega)]
  rw [Nat.add_sub_cancel_left]

@[simp] theorem fanCodeOf_wordOfFields : fanCodeOf (wordOfFields sig z toff fan flag mode) = fan := by
  refine BitVec.eq_of_getLsbD_eq fun i hi => ?_
  simp only [fanCodeOf, BitVec.getLsbD_extractLsb', hi, decide_true, Bool.true_and, wordOfFields_getLsbD]
  repeat rw [if_neg (by omega)]
  rw [if_pos (by omega)]
  rw [Nat.add_sub_cancel_left]

@[simp] theorem flagOf_wordOfFields : flagOf (wordOfFields sig z toff fan flag mode) = flag := by
  refine BitVec.eq_of_getLsbD_eq fun i hi => ?_
  obtain rfl : i = 0 := by omega
  simp only [flagOf, BitVec.getLsbD_extractLsb', hi, decide_true, Bool.true_and, wordOfFields_getLsbD]
  rfl

@[simp] theorem modeCodeOf_wordOfFields : modeCodeOf (wordOfFields sig z toff fan flag mode) = mode := by
  refine BitVec.eq_of_getLsbD_eq fun i hi => ?_
  simp only [modeCodeOf, BitVec.getLsbD_extractLsb', hi, decide_true, Bool.true_and, wordOfFields_getLsbD]
  rw [Nat.zero_add, if_pos hi]

/-- A word is its fields. -/
theorem wordOfFields_of_word (w : ProtocolWord) :
    wordOfFields (sigOf w) (uncheckedOf w) (toffOf w) (fanCodeOf w) (flagOf w) (modeCodeOf w) = w := by
  refine BitVec.eq_of_getLsbD_eq fun i hi => ?_
  rw [wordOfFields_getLsbD]
  simp only [sigOf, uncheckedOf, toffOf, fanCodeOf, flagOf, modeCodeOf, BitVec.getLsbD_extractLsb']
  split_ifs with h1 h2 h3 h4 h5
  · simp [h1]
  · simp [show i - 3 < 1 by omega, show 3 + (i - 3) = i by omega]
  · simp [show i - 4 < 4 by omega, show 4 + (i - 4) = i by omega]
  · simp [show i - 8 < 4 by omega, show 8 + (i - 8) = i by omega]
  · simp [show i - 12 < 16 by omega, show 12 + (i - 12) = i by omega]
  · simp [show i - 28 < 15 by omega, show 28 + (i - 28) = i by omega]

/-- Two words with the same fields are one word. -/
theorem word_ext_fields {a b : ProtocolWord} (h1 : sigOf a = sigOf b) (h2 : uncheckedOf a = uncheckedOf b)
    (h3 : toffOf a = toffOf b) (h4 : fanCodeOf a = fanCodeOf b) (h5 : flagOf a = flagOf b)
    (h6 : modeCodeOf a = modeCodeOf b) : a = b := by
  rw [← wordOfFields_of_word a, ← wordOfFields_of_word b, h1, h2, h3, h4, h5, h6]

/-- The value of a word is the sum of its fields (30_encoding.md R68). -/
theorem wordOfFields_toNat :
    (wordOfFields sig z toff fan flag mode).toNat =
      2 ^ 28 * sig.toNat + 2 ^ 12 * z.toNat + 256 * toff.toNat + 16 * fan.toNat + 8 * flag.toNat + mode.toNat := by
  have h (a : Nat) (k : Nat) (b : Nat) (hb : b < 2 ^ k) : a <<< k ||| b = a * 2 ^ k + b := by
    rw [Nat.shiftLeft_eq, Nat.mul_comm, ← Nat.two_pow_add_eq_or_of_lt hb]
  simp only [wordOfFields, BitVec.toNat_cast, BitVec.toNat_append]
  rw [h _ 16 _ z.isLt, h _ 4 _ toff.isLt, h _ 4 _ fan.isLt, h _ 1 _ flag.isLt, h _ 3 _ mode.isLt]
  ring

/-- A foreign word's signature field. -/
@[simp] theorem sigOf_append (low : BitVec 28) : sigOf (sig ++ low) = sig := by
  refine BitVec.eq_of_getLsbD_eq fun i hi => ?_
  simp only [sigOf, BitVec.getLsbD_extractLsb', BitVec.getLsbD_append, hi, decide_true, Bool.true_and]
  rw [if_neg (by omega), Nat.add_sub_cancel_left]

/-- A foreign word's other bits. -/
@[simp] theorem extractLow_append (low : BitVec 28) :
    (sig ++ low : ProtocolWord).extractLsb' 0 28 = low := by
  refine BitVec.eq_of_getLsbD_eq fun i hi => ?_
  simp only [BitVec.getLsbD_extractLsb', BitVec.getLsbD_append, hi, decide_true, Bool.true_and]
  rw [Nat.zero_add, if_pos hi]

/-- A word is its bits 42:28 and its bits 27:0. -/
theorem sig_append_low (w : ProtocolWord) : sigOf w ++ w.extractLsb' 0 28 = w := by
  refine BitVec.eq_of_getLsbD_eq fun i hi => ?_
  simp only [BitVec.getLsbD_append, sigOf, BitVec.getLsbD_extractLsb']
  split_ifs with h
  · simp [h]
  · simp [show i - 28 < 15 by omega, show 28 + (i - 28) = i by omega]

namespace Machine

/-- Word assembly by OR is the word of the fields (30_encoding.md R68). -/
theorem assembleWord_eq : assembleWord toff fan flag mode = wordOfFields Config.sigField 0 toff fan flag mode := by
  refine BitVec.eq_of_getLsbD_eq fun i hi => ?_
  rw [wordOfFields_getLsbD]
  simp only [assembleWord, Config.sig, Config.sigField, BitVec.getLsbD_or, BitVec.getLsbD_shiftLeft,
    BitVec.getLsbD_setWidth, BitVec.truncate_eq_setWidth]
  interval_cases i <;> simp

/-- VALIDATE looks at the signature field alone (41_decoder.md R137). -/
theorem validateWord_iff (w : ProtocolWord) : validateWord w = true ↔ sigOf w = Config.sigField := by
  simp only [validateWord, beq_iff_eq]
  constructor <;> intro h
  · refine BitVec.eq_of_getLsbD_eq fun i hi => ?_
    have := congrArg (fun v : ProtocolWord => v.getLsbD (28 + i)) h
    simp only [BitVec.getLsbD_and, Config.sigMask, Config.sig] at this
    simp only [sigOf, BitVec.getLsbD_extractLsb', Config.sigField]
    interval_cases i <;> simpa using this
  · refine BitVec.eq_of_getLsbD_eq fun i hi => ?_
    by_cases h28 : i < 28
    · simp only [BitVec.getLsbD_and, Config.sigMask, Config.sig]
      interval_cases i <;> simp
    · have := congrArg (fun v : BitVec 15 => v.getLsbD (i - 28)) h
      simp only [sigOf, BitVec.getLsbD_extractLsb', Config.sigField, show i - 28 < 15 by omega, decide_true,
        Bool.true_and, show 28 + (i - 28) = i by omega] at this
      simp only [BitVec.getLsbD_and, Config.sigMask, Config.sig, this]
      clear this h
      interval_cases i <;> first | omega | simp

@[simp] theorem validateWord_wordOfFields :
    validateWord (wordOfFields Config.sigField z toff fan flag mode) = true := by
  rw [validateWord_iff]; simp

/-- UNPACK by fields. -/
theorem unpackWord_wordOfFields :
    unpackWord (wordOfFields sig z toff fan flag mode) =
      { mode := portOfMode (modeOf flag mode), fan := portOfFan (fanOf fan), temp := tempOf toff, swing := 0 } := by
  simp [unpackWord]

/-- The bits of the accumulator after one more bit (41_decoder.md R134). -/
theorem shiftAcc_getLsbD (b : Bool) (acc : ProtocolWord) (i : Nat) :
    (shiftAcc b acc).getLsbD i = if i = 42 then b else acc.getLsbD (i + 1) := by
  unfold shiftAcc
  have h42 : (0x40000000000 : ProtocolWord).getLsbD i = decide (i = 42) := by
    rw [show (0x40000000000 : ProtocolWord) = BitVec.twoPow 43 42 by decide, BitVec.getLsbD_twoPow]
    by_cases h : i = 42 <;> simp [h, eq_comm]
  have h0 : (0 : ProtocolWord).getLsbD i = false := BitVec.getLsbD_zero
  cases b <;> simp only [BitVec.getLsbD_or, BitVec.getLsbD_ushiftRight, if_true, Bool.false_eq_true, if_false, h42, h0,
    Bool.or_false, Nat.add_comm 1 i]
  · split_ifs with hi
    · subst hi; exact BitVec.getLsbD_of_ge acc _ (by decide)
    · rfl
  · split_ifs with hi <;> simp [hi]

@[simp] theorem wordBits_length (w : ProtocolWord) : (wordBits w).length = 43 := by simp [wordBits]

end Machine

end Sys2Proof
end

