-- ==== Sys2Proof/Laws/Ops.lean ====
section
/-! SUPPORT. What each shared operation can do, said once: the timing registers, the checks before an operation that uses them,
the receiver, the transmitter. -/

namespace Sys2Proof.Machine

/-! ### The timing registers -/

@[simp] theorem tpOfIndex_tpIndex (r : TpReg) : tpOfIndex (tpIndex r) = some r := by cases r <;> rfl

theorem tpOfIndex_eq_some {i : BitVec 3} {r : TpReg} : tpOfIndex i = some r ↔ i = tpIndex r := by
  revert i; cases r <;> decide

theorem tpOfIndex_eq_none {i : BitVec 3} : tpOfIndex i = none ↔ 5 ≤ i.toNat := by
  revert i; decide

@[simp] theorem tpGet_tpSet_same (p : TimingProfile) (r : TpReg) (v : Dur) : tpGet (tpSet p r v) r = v := by
  cases r <;> rfl

theorem tpGet_tpSet_other (p : TimingProfile) {r q : TpReg} (v : Dur) (h : q ≠ r) :
    tpGet (tpSet p r v) q = tpGet p q := by
  cases r <;> cases q <;> first | rfl | exact absurd rfl h

@[simp] theorem tpIsWritten_mark (f : TpFlags) (r q : TpReg) :
    tpIsWritten (tpMarkWritten f r) q = (decide (q = r) || tpIsWritten f q) := by
  cases r <;> cases q <;> rfl

/-- Every register is one of the five. -/
theorem mem_allTp (r : TpReg) : r ∈ allTp := by cases r <;> decide

/-- A register that was written reads as its value. -/
theorem tpRead_written {s : State} {r : TpReg} (h : tpIsWritten s.tpWritten r = true) : tpRead s r = tpGet s.tp r := by
  simp [tpRead, h]

/-- A register that was written may be read. -/
theorem tpMayRead_written {s : State} {r : TpReg} (h : tpIsWritten s.tpWritten r = true) : tpMayRead s r = true := by
  simp [tpMayRead, h]

/-- A register not written since reset may be read exactly where its use is not refused. -/
theorem tpMayRead_unwritten {s : State} {r : TpReg} (h : tpIsWritten s.tpWritten r = false) :
    tpMayRead s r = true ↔ s.cfg.unwritten = .unspecified := by
  simp [tpMayRead, h]

/-- A ready machine is usable. -/
theorem usable_of_ready {s : State} (h : Ready s) : Usable s :=
  fun r hr => ⟨tpMayRead_written (h r hr).1, by rw [tpRead_written (h r hr).1]; exact (h r hr).2⟩

/-- These registers can be read exactly when each of them may be. -/
theorem tpUnreadable_eq_none {rs : List TpReg} {s : State} :
    tpUnreadable rs s = none ↔ ∀ r ∈ rs, tpMayRead s r = true := by
  simp [tpUnreadable]

/-- Why these registers cannot be read: one of them was not written, and its use is refused. -/
theorem tpUnreadable_eq_some {rs : List TpReg} {s : State} {x : Refusal} (h : tpUnreadable rs s = some x) :
    ∃ r ∈ rs, x = .tpUnwritten r ∧ tpMayRead s r = false := by
  obtain ⟨r, hf, rfl⟩ := Option.map_eq_some_iff.1 h
  exact ⟨r, List.mem_of_find?_eq_some hf, rfl, by simpa using List.find?_some hf⟩

/-- Nothing stands in the way of an operation exactly when every register it uses may be read and reads as a positive duration. -/
theorem tpObstacle_eq_none {rs : List TpReg} {s : State} :
    tpObstacle rs s = none ↔ ∀ r ∈ rs, tpMayRead s r = true ∧ tpRead s r ≠ 0 := by
  unfold tpObstacle
  cases hu : tpUnreadable rs s with
  | some x =>
    obtain ⟨q, hq, -, hm⟩ := tpUnreadable_eq_some hu
    simp only [reduceCtorEq, false_iff]
    intro h
    rw [(h q hq).1] at hm; cases hm
  | none =>
    have hm := tpUnreadable_eq_none.1 hu
    simp only [Option.map_eq_none_iff, List.find?_eq_none, beq_iff_eq]
    exact ⟨fun h r hr => ⟨hm r hr, h r hr⟩, fun h r hr => (h r hr).2⟩

/-- What stands in the way: a register not written whose use is refused, or, where all of them may be read, one that reads as 0. -/
theorem tpObstacle_eq_some {rs : List TpReg} {s : State} {x : Refusal} (h : tpObstacle rs s = some x) :
    (∃ r ∈ rs, x = .tpUnwritten r ∧ tpMayRead s r = false) ∨
      ∃ r ∈ rs, x = .tpZero r ∧ tpRead s r = 0 ∧ ∀ q ∈ rs, tpMayRead s q = true := by
  unfold tpObstacle at h
  cases hu : tpUnreadable rs s with
  | some y => rw [hu] at h; cases h; exact .inl (tpUnreadable_eq_some hu)
  | none =>
    rw [hu] at h
    obtain ⟨r, hf, rfl⟩ := Option.map_eq_some_iff.1 h
    exact .inr ⟨r, List.mem_of_find?_eq_some hf, rfl, by simpa using List.find?_some hf, tpUnreadable_eq_none.1 hu⟩

@[simp] theorem tpGet_tpProfile (s : State) (r : TpReg) : tpGet (tpProfile s) r = tpRead s r := by cases r <;> rfl

/-- The profile an operation reads is one the state may read as. -/
theorem readsAs_tpProfile (s : State) : ReadsAs s (tpProfile s) := fun r h => by rw [tpGet_tpProfile, tpRead_written h]

/-- Where every register is written the profile is the registers. -/
theorem tpProfile_written {s : State} (h : allTp.all (tpIsWritten s.tpWritten) = true) : tpProfile s = s.tp := by
  have key (r : TpReg) : tpRead s r = tpGet s.tp r := tpRead_written (List.all_eq_true.1 h r (mem_allTp r))
  simp [tpProfile, key, tpGet]

/-- Where the registers used are all written, the operation itself. -/
theorem withProfile_written {rs : List TpReg} (f : State → State) {s : State}
    (h : rs.all (tpIsWritten s.tpWritten) = true) : withProfile rs f s = f s := by
  unfold withProfile; rw [if_pos h]

/-- Where one is not, the operation on the profile, the registers as they were, and a new draw. -/
theorem withProfile_unwritten {rs : List TpReg} (f : State → State) {s : State}
    (h : rs.all (tpIsWritten s.tpWritten) = false) : withProfile rs f s =
      { f { s with tp := tpProfile s } with tp := s.tp, draws := (f { s with tp := tpProfile s }).draws + 1 } := by
  unfold withProfile; rw [if_neg (by simp [h])]

/-- What an operation on registers does: the operation itself, or the operation on a profile. -/
theorem withProfile_cases (rs : List TpReg) (f : State → State) (s : State) :
    (rs.all (tpIsWritten s.tpWritten) = true ∧ withProfile rs f s = f s) ∨
    (rs.all (tpIsWritten s.tpWritten) = false ∧ withProfile rs f s =
      { f { s with tp := tpProfile s } with tp := s.tp, draws := (f { s with tp := tpProfile s }).draws + 1 }) := by
  cases h : rs.all (tpIsWritten s.tpWritten)
  · exact .inr ⟨rfl, withProfile_unwritten f h⟩
  · exact .inl ⟨rfl, withProfile_written f h⟩

/-- An operation that uses all five registers and keeps them does what it does on the profile, whichever are written. -/
theorem withProfile_allTp {f : State → State} (hf : ∀ s, (f s).tp = s.tp) (s : State) :
    ∃ d, withProfile allTp f s = { f { s with tp := tpProfile s } with tp := s.tp, draws := d } := by
  obtain ⟨h, h1⟩ | ⟨-, h1⟩ := withProfile_cases allTp f s
  · refine ⟨(f s).draws, ?_⟩
    have h2 : { f s with tp := s.tp } = f s := by rw [← hf s]
    rw [h1, tpProfile_written h, ← h2]
  · exact ⟨_, h1⟩

/-- An operation that keeps the registers does what it does on a profile the state may read as, and keeps them. -/
theorem withProfile_readsAs {f : State → State} (hf : ∀ s, (f s).tp = s.tp) (rs : List TpReg) (s : State) :
    ∃ p d, ReadsAs s p ∧ withProfile rs f s = { f { s with tp := p } with tp := s.tp, draws := d } := by
  obtain ⟨-, h1⟩ | ⟨-, h1⟩ := withProfile_cases rs f s
  · refine ⟨s.tp, (f s).draws, fun _ _ => rfl, ?_⟩
    have h2 : { f s with tp := s.tp } = f s := by rw [← hf s]
    rw [h1, ← h2]
  · exact ⟨_, _, readsAs_tpProfile s, h1⟩

/-- An operation whose registers may be read and read as positive durations runs. -/
theorem withTp_usable {rs : List TpReg} {f : State → State} {s : State}
    (h : ∀ r ∈ rs, tpMayRead s r = true ∧ tpRead s r ≠ 0) : withTp rs f s = .next (withProfile rs f s) := by
  unfold withTp; rw [tpObstacle_eq_none.2 h]

/-- An operation whose registers are written and positive runs as itself. -/
theorem withTp_runs {rs : List TpReg} {f : State → State} {s : State}
    (h : ∀ r ∈ rs, tpIsWritten s.tpWritten r = true ∧ tpGet s.tp r ≠ 0) : withTp rs f s = .next (f s) := by
  rw [withTp_usable fun r hr => ⟨tpMayRead_written (h r hr).1, by rw [tpRead_written (h r hr).1]; exact (h r hr).2⟩,
    withProfile_written f (List.all_eq_true.2 fun r hr => (h r hr).1)]

/-- An operation that ran could read its registers, none of them as 0, and did what it does. -/
theorem withTp_next {rs : List TpReg} {f : State → State} {s t : State} (h : withTp rs f s = .next t) :
    (∀ r ∈ rs, tpMayRead s r = true ∧ tpRead s r ≠ 0) ∧ t = withProfile rs f s := by
  unfold withTp at h
  split at h
  · cases h
  · cases h; exact ⟨tpObstacle_eq_none.1 ‹_›, rfl⟩

/-- What a ready machine did is the operation itself. -/
theorem withTp_next_ready {rs : List TpReg} {f : State → State} {s t : State} (hr : Ready s)
    (h : withTp rs f s = .next t) : t = f s := by
  rw [(withTp_next h).2, withProfile_written f (List.all_eq_true.2 fun r _ => (hr r (mem_allTp r)).1)]

/-- A ready machine runs an operation on any of the timing registers as itself. -/
theorem withTp_ready {rs : List TpReg} {f : State → State} {s : State} (h : Ready s) :
    withTp rs f s = .next (f s) :=
  withTp_runs fun r _ => h r (mem_allTp r)

/-! ### The transmitter -/

/-- Calls in order: the transmitter takes each, the trace records each, nothing else changes. -/
theorem txCalls_eq (cs : List TxCall) (s : State) :
    txCalls cs s = { s with
      tx := cs.foldl (fun t c => txApply c t) s.tx, events := s.events ++ cs.map Event.tx } := by
  induction cs generalizing s with
  | nil => simp [txCalls]
  | cons c cs ih => simp [txCalls, ih, txCall]

/-- The segments a pair appends. -/
def pulseSegments (p : Pulse) : List Segment := [.mark p.mark, .space p.space]

/-- Appending pairs appends their segments. -/
theorem foldl_pulseCall (ps : List Pulse) (t : Transmitter) :
    (ps.map pulseCall).foldl (fun t c => txApply c t) t = { t with frame := t.frame ++ ps.flatMap pulseSegments } := by
  induction ps generalizing t with
  | nil => simp
  | cons p ps ih =>
    rw [List.map_cons, List.foldl_cons, ih]
    simp [pulseCall, txApply, pulseSegments]

/-- EMIT's calls append the frame's pairs and the trailing mark. -/
theorem foldl_emitCalls (p : TimingProfile) (word : ProtocolWord) (t : Transmitter) :
    (emitCalls p word).foldl (fun t c => txApply c t) t =
      { t with frame := t.frame ++ (framePulses p word).flatMap pulseSegments ++ [.mark p.bm] } := by
  rw [emitCalls, List.foldl_append, foldl_pulseCall]
  simp [txApply]

/-- EMIT on the transmitter, whole. -/
theorem emitWord_eq (word : ProtocolWord) (s : State) :
    emitWord word s = { s with
      tx := { s.tx with frame := s.tx.frame ++ (framePulses s.tp word).flatMap pulseSegments ++ [.mark s.tp.bm] }
      events := s.events ++ (emitCalls s.tp word).map Event.tx
      idx := 42 } := by
  simp [emitWord, txCalls_eq, setIdx, foldl_emitCalls]

/-- TRANSMIT's steps, whole. -/
theorem runTransmit_eq (mode : Mode) (fan : Fan) (temp : BitVec 16) (s : State) :
    runTransmit mode fan temp s = { s with
      mb := (encodeState s.cfg.tie mode fan temp s.mb).2
      w := (encodeState s.cfg.tie mode fan temp s.mb).1
      idx := 42
      tx := { carrier := s.cfg.carrierHz
              frame := (framePulses s.tp (encodeState s.cfg.tie mode fan temp s.mb).1).flatMap pulseSegments ++
                [.mark s.tp.bm] }
      events := s.events ++ [.tx (.begin s.cfg.carrierHz)] ++
        (emitCalls s.tp (encodeState s.cfg.tie mode fan temp s.mb).1).map Event.tx ++
        [.tx .send, .publishSent mode fan temp 0] } := by
  simp [runTransmit, emitWord_eq, txCall, txApply, publish, setMb, setW]

/-! ### The receiver -/

@[simp] theorem rxMatch_fst (em es : Dur) (s : State) :
    (rxMatch em es s).1 = rxAnswer s.cfg.tolerance em es s.rx := rfl

@[simp] theorem rxMatch_snd (em es : Dur) (s : State) :
    (rxMatch em es s).2 = rxAfter em es (rxAnswer s.cfg.tolerance em es s.rx) s := rfl

/-- RxMatch answers true only on a pair of the buffer. -/
theorem rxAnswer_true {t : Tolerance} {em es : Dur} {r : Receiver} (h : rxAnswer t em es r = true) :
    r.cur < r.buf.length := by
  unfold rxAnswer at h
  split at h
  · exact (List.getElem?_eq_some_iff.1 ‹_›).1
  · cases h

/-- RxMatch's answer from the pairs not yet consumed. -/
theorem rxAnswer_cons {t : Tolerance} {em es : Dur} {r : Receiver} {q : Pulse} {qs : List Pulse}
    (h : r.buf.drop r.cur = q :: qs) : rxAnswer t em es r = pulseMatches t em es q := by
  have : r.buf[r.cur]? = some q := by
    rw [← List.head?_drop, h]; rfl
  simp [rxAnswer, this]

theorem rxAnswer_nil {t : Tolerance} {em es : Dur} {r : Receiver} (h : r.buf.drop r.cur = []) :
    rxAnswer t em es r = false := by
  have : r.buf[r.cur]? = none := by
    rw [← List.head?_drop, h]; rfl
  simp [rxAnswer, this]

end Sys2Proof.Machine
end

