-- ==== Sys2Proof/Laws/Decoder.lean ====
section
/-! SUPPORT. What the Decoder's operations can do: what they keep, and what the bit loop reads. -/

namespace Sys2Proof.Machine

/-- The events a Decoder adds to the trace: calls of RxMatch and the Publish of a decoded state. -/
def Event.isDecoders : Event → Bool
  | .rxMatch _ _ _ => true
  | .publishDecoded _ => true
  | .tx _ => false
  | .publishSent _ _ _ _ => false

/-- What no Decoder operation writes; the trace only grows, by the Decoder's own events. -/
structure DecoderKeeps (s t : State) : Prop where
  mb : t.mb = s.mb
  tp : t.tp = s.tp
  w : t.w = s.w
  idx : t.idx = s.idx
  tpRdata : t.tpRdata = s.tpRdata
  buf : t.rx.buf = s.rx.buf
  tx : t.tx = s.tx
  cfg : t.cfg = s.cfg
  tpWritten : t.tpWritten = s.tpWritten
  inputs : t.inputs = s.inputs
  ret : t.ret = s.ret
  events : ∃ es, t.events = s.events ++ es ∧ ∀ e ∈ es, Event.isDecoders e = true

namespace DecoderKeeps

theorem refl (s : State) : DecoderKeeps s s :=
  ⟨rfl, rfl, rfl, rfl, rfl, rfl, rfl, rfl, rfl, rfl, rfl, [], by simp⟩

theorem trans {s t u : State} (h : DecoderKeeps s t) (k : DecoderKeeps t u) : DecoderKeeps s u := by
  obtain ⟨es, he, hes⟩ := h.events
  obtain ⟨fs, hf, hfs⟩ := k.events
  refine ⟨k.mb.trans h.mb, k.tp.trans h.tp, k.w.trans h.w, k.idx.trans h.idx, k.tpRdata.trans h.tpRdata,
    k.buf.trans h.buf, k.tx.trans h.tx, k.cfg.trans h.cfg, k.tpWritten.trans h.tpWritten,
    k.inputs.trans h.inputs, k.ret.trans h.ret, es ++ fs, by rw [hf, he, List.append_assoc], ?_⟩
  intro e hmem
  rcases List.mem_append.1 hmem with h1 | h1
  · exact hes e h1
  · exact hfs e h1

theorem rxAfter (em es : Dur) (b : Bool) (s : State) : DecoderKeeps s (rxAfter em es b s) :=
  ⟨rfl, rfl, rfl, rfl, rfl, rfl, rfl, rfl, rfl, rfl, rfl, [.rxMatch em es b], rfl, by simp [Event.isDecoders]⟩

theorem raise (e : Res) (s : State) : DecoderKeeps s (raise e s) :=
  ⟨rfl, rfl, rfl, rfl, rfl, rfl, rfl, rfl, rfl, rfl, rfl, [], by simp⟩

theorem succeed (o : Out) (s : State) : DecoderKeeps s (succeed o s) :=
  ⟨rfl, rfl, rfl, rfl, rfl, rfl, rfl, rfl, rfl, rfl, rfl, [.publishDecoded o], rfl, by simp [Event.isDecoders]⟩

theorem startDecode (s : State) : DecoderKeeps s (startDecode s) :=
  ⟨rfl, rfl, rfl, rfl, rfl, rfl, rfl, rfl, rfl, rfl, rfl, [], by simp⟩

theorem headerMatched (s : State) : DecoderKeeps s (headerMatched s) :=
  ⟨rfl, rfl, rfl, rfl, rfl, rfl, rfl, rfl, rfl, rfl, rfl, [], by simp⟩

theorem shiftIn (b : Bool) (s : State) : DecoderKeeps s (shiftIn b s) :=
  ⟨rfl, rfl, rfl, rfl, rfl, rfl, rfl, rfl, rfl, rfl, rfl, [], by simp⟩

theorem completeFrame (word : ProtocolWord) (s : State) : DecoderKeeps s (completeFrame word s) :=
  ⟨rfl, rfl, rfl, rfl, rfl, rfl, rfl, rfl, rfl, rfl, rfl, [], by simp⟩

/-- An operation of the Decoder keeps it on unwritten registers too. -/
theorem withProfile {f : State → State} (hf : ∀ s, DecoderKeeps s (f s)) (rs : List TpReg) (s : State) :
    DecoderKeeps s (withProfile rs f s) := by
  obtain ⟨-, h⟩ | ⟨-, h⟩ := withProfile_cases rs f s
  · rw [h]; exact hf s
  · rw [h]
    obtain ⟨a, -, c, d, e, f', g, i, j, k, l, m⟩ := hf { s with tp := tpProfile s }
    exact ⟨a, rfl, c, d, e, f', g, i, j, k, l, m⟩

end DecoderKeeps

/-! ### One operation, all it can do -/

/-- Expect-Header: matched, or HeaderMismatch. -/
theorem tryHeader_eq (s : State) :
    tryHeader s = if rxAnswer s.cfg.tolerance s.tp.hm s.tp.hs s.rx then
      headerMatched (rxAfter s.tp.hm s.tp.hs true s) else raise .headerMismatch (rxAfter s.tp.hm s.tp.hs false s) := by
  unfold tryHeader
  cases h : rxAnswer s.cfg.tolerance s.tp.hm s.tp.hs s.rx <;> simp [h]

/-- The one-space try: a 1, or the state after a failed call. -/
theorem tryOne_eq (s : State) :
    tryOne s = if rxAnswer s.cfg.tolerance s.tp.bm s.tp.os s.rx then
      (true, shiftIn true (rxAfter s.tp.bm s.tp.os true s)) else (false, rxAfter s.tp.bm s.tp.os false s) := by
  unfold tryOne
  cases h : rxAnswer s.cfg.tolerance s.tp.bm s.tp.os s.rx <;> simp [h]

/-- The zero-space try: a 0, or TruncatedFrame. -/
theorem tryZero_eq (s : State) :
    tryZero s = if rxAnswer s.cfg.tolerance s.tp.bm s.tp.zs s.rx then
      shiftIn false (rxAfter s.tp.bm s.tp.zs true s) else raise .truncatedFrame (rxAfter s.tp.bm s.tp.zs false s) := by
  unfold tryZero
  cases h : rxAnswer s.cfg.tolerance s.tp.bm s.tp.zs s.rx <;> simp [h]

/-- One bit index: a 1 by one call, a 0 by two, or TruncatedFrame by two. -/
theorem bitStep_eq (s : State) :
    bitStep s = if rxAnswer s.cfg.tolerance s.tp.bm s.tp.os s.rx then shiftIn true (rxAfter s.tp.bm s.tp.os true s)
      else tryZero (rxAfter s.tp.bm s.tp.os false s) := by
  unfold bitStep
  rw [tryOne_eq]
  cases h : rxAnswer s.cfg.tolerance s.tp.bm s.tp.os s.rx <;> simp

/-- Frame-Complete: unpacked and published, or SignatureMismatch. -/
theorem finishFrame_eq (s : State) :
    finishFrame s = if validateWord s.acc then succeed (unpackWord s.acc) s else raise .signatureMismatch s := rfl

/-- The bit loop does nothing where no bit is expected. -/
theorem bitLoop_idle (n : Nat) {s : State} (h : s.fsm ≠ .expectBit) : bitLoop n s = s := by
  cases n <;> simp [bitLoop, h]

/-- The Decoder tries a bit symbol only while it expects a bit. -/
theorem expectsBit_iff (s : State) : expectsBit s = true ↔ s.fsm = .expectBit ∧ s.nb.toNat < 43 := by
  simp [expectsBit]

theorem execSymBit1_rx (s : State) : execSymBit1 .rx s =
    if expectsBit s = true then withTp [.bm, .os] (fun s => (tryOne s).2) s else .next s := rfl

theorem execSymBit0_rx (s : State) : execSymBit0 .rx s =
    if expectsBit s = true then withTp [.bm, .zs] tryZero s else .next s := rfl

/-! ### What the Decoder keeps -/

theorem tryHeader_keeps (s : State) : DecoderKeeps s (tryHeader s) := by
  rw [tryHeader_eq]
  split
  · exact (DecoderKeeps.rxAfter ..).trans (DecoderKeeps.headerMatched _)
  · exact (DecoderKeeps.rxAfter ..).trans (DecoderKeeps.raise ..)

theorem tryOne_keeps (s : State) : DecoderKeeps s (tryOne s).2 := by
  rw [tryOne_eq]
  split
  · exact (DecoderKeeps.rxAfter ..).trans (DecoderKeeps.shiftIn ..)
  · exact DecoderKeeps.rxAfter ..

theorem tryZero_keeps (s : State) : DecoderKeeps s (tryZero s) := by
  rw [tryZero_eq]
  split
  · exact (DecoderKeeps.rxAfter ..).trans (DecoderKeeps.shiftIn ..)
  · exact (DecoderKeeps.rxAfter ..).trans (DecoderKeeps.raise ..)

theorem bitStep_keeps (s : State) : DecoderKeeps s (bitStep s) := by
  rw [bitStep_eq]
  split
  · exact (DecoderKeeps.rxAfter ..).trans (DecoderKeeps.shiftIn ..)
  · exact (DecoderKeeps.rxAfter ..).trans (tryZero_keeps _)

theorem bitLoop_keeps (n : Nat) (s : State) : DecoderKeeps s (bitLoop n s) := by
  induction n generalizing s with
  | zero => exact .refl s
  | succ n ih =>
    unfold bitLoop
    split
    · exact (bitStep_keeps s).trans (ih _)
    · exact .refl s

theorem finishFrame_keeps (s : State) : DecoderKeeps s (finishFrame s) := by
  rw [finishFrame_eq]
  split
  · exact DecoderKeeps.succeed ..
  · exact DecoderKeeps.raise ..

theorem finishIfComplete_keeps (s : State) : DecoderKeeps s (finishIfComplete s) := by
  unfold finishIfComplete
  split
  · exact finishFrame_keeps s
  · exact .refl s

theorem runDecode_keeps (s : State) : DecoderKeeps s (runDecode s) :=
  (((DecoderKeeps.startDecode s).trans (tryHeader_keeps _)).trans (bitLoop_keeps 43 _)).trans
    (finishIfComplete_keeps _)

theorem receiveWord_keeps (word : ProtocolWord) (s : State) : DecoderKeeps s (receiveWord word s) :=
  (DecoderKeeps.completeFrame word s).trans (finishFrame_keeps _)

/-! ### What the bit loop reads -/

/-- ACC after bits received in order (41_decoder.md R134). -/
def shiftBits (bs : List Bool) (acc : ProtocolWord) : ProtocolWord := bs.foldl (fun a b => shiftAcc b a) acc

theorem readBits_length_le (t : Tolerance) (p : TimingProfile) (n : Nat) (qs : List Pulse) :
    (readBits t p n qs).length ≤ n := by
  induction n generalizing qs with
  | zero => simp [readBits]
  | succ n ih =>
    cases qs with
    | nil => simp [readBits]
    | cons q qs =>
      simp only [readBits]
      split_ifs <;> simp [ih]

/-- What the bit loop leaves, from the bits it read: all of them, and the frame is complete; or fewer, and it is truncated. -/
structure BitLoopEnds (s t : State) (n : Nat) (bs : List Bool) : Prop where
  acc : t.acc = shiftBits bs s.acc
  cur : t.rx.cur = s.rx.cur + bs.length
  nb : t.nb.toNat = s.nb.toNat + bs.length
  complete : bs.length = n → t.fsm = .frameComplete ∧ t.res = s.res ∧ t.out = s.out ∧ t.draws = s.draws
  truncated : bs.length < n → t.fsm = .failed ∧ t.res = .truncatedFrame

/-- The bit loop reads the bits at the head of the pairs not yet consumed. -/
theorem bitLoop_reads (n : Nat) (s : State) (hn : s.nb.toNat + n = 43)
    (hf : s.fsm = if n = 0 then .frameComplete else .expectBit) :
    BitLoopEnds s (bitLoop n s) n (readBits s.cfg.tolerance s.tp n (s.rx.buf.drop s.rx.cur)) := by
  induction n generalizing s with
  | zero =>
    refine ⟨rfl, rfl, rfl, fun _ => ⟨by rw [bitLoop]; simpa using hf, rfl, rfl, rfl⟩, fun h => by simp [readBits] at h⟩
  | succ n ih =>
    have hfsm : s.fsm = .expectBit := by simpa using hf
    unfold bitLoop
    rw [if_pos hfsm, bitStep_eq]
    have hnb (u : State) (h : u.nb = s.nb) : (u.nb + 1).toNat = s.nb.toNat + 1 := by
      rw [h, BitVec.toNat_add]; simp; omega
    have hfsm' (u : State) (b : Bool) (h : u.nb = s.nb) :
        (shiftIn b u).fsm = if n = 0 then .frameComplete else .expectBit := by
      simp only [shiftIn_fsm]
      have : u.nb + 1 = 43 ↔ n = 0 := by
        rw [← BitVec.toNat_inj, hnb u h]; simp; omega
      simp only [this]
    cases hq : s.rx.buf.drop s.rx.cur with
    | nil =>
      rw [if_neg (by simp [rxAnswer_nil hq]), tryZero_eq, if_neg (by simp [rxAnswer_nil hq])]
      rw [bitLoop_idle _ (by simp)]
      exact ⟨rfl, rfl, rfl, fun h => by simp [readBits] at h, fun _ => ⟨rfl, rfl⟩⟩
    | cons q qs =>
      have hdrop : s.rx.buf.drop (s.rx.cur + 1) = qs := by
        rw [← List.drop_drop, hq]; rfl
      simp only [rxAnswer_cons hq, readBits]
      by_cases h1 : pulseMatches s.cfg.tolerance s.tp.bm s.tp.os q = true
      · simp only [h1, if_true]
        have := ih (shiftIn true (rxAfter s.tp.bm s.tp.os true s)) (by
          simp only [shiftIn_nb, rxAfter_nb]; rw [hnb s rfl]; omega) (hfsm' _ _ rfl)
        simp only [shiftIn_cfg, rxAfter_cfg, shiftIn_tp, rxAfter_tp, shiftIn_rx, rxAfter_rx, if_true, hdrop] at this
        refine ⟨this.acc, ?_, ?_, ?_, ?_⟩
        · rw [this.cur]; simp; omega
        · rw [this.nb]; simp only [shiftIn_nb, rxAfter_nb, hnb s rfl, List.length_cons]; omega
        · intro h; exact this.complete (by simpa using h)
        · intro h; exact this.truncated (by simpa using h)
      · simp only [h1, if_false, Bool.false_eq_true]
        rw [tryZero_eq]
        have hans : rxAnswer (rxAfter s.tp.bm s.tp.os false s).cfg.tolerance (rxAfter s.tp.bm s.tp.os false s).tp.bm
            (rxAfter s.tp.bm s.tp.os false s).tp.zs (rxAfter s.tp.bm s.tp.os false s).rx =
            pulseMatches s.cfg.tolerance s.tp.bm s.tp.zs q := by
          rw [rxAnswer_cons (q := q) (qs := qs)] <;> simp [hq]
        rw [hans]
        by_cases h0 : pulseMatches s.cfg.tolerance s.tp.bm s.tp.zs q = true
        · simp only [h0, if_true]
          have := ih (shiftIn false (rxAfter s.tp.bm s.tp.zs true (rxAfter s.tp.bm s.tp.os false s))) (by
            simp only [shiftIn_nb, rxAfter_nb]; rw [hnb s rfl]; omega) (hfsm' _ _ rfl)
          simp only [shiftIn_cfg, rxAfter_cfg, shiftIn_tp, rxAfter_tp, shiftIn_rx, rxAfter_rx, if_true, hdrop,
            Bool.false_eq_true, if_false] at this
          refine ⟨this.acc, ?_, ?_, ?_, ?_⟩
          · rw [rxAfter_tp, this.cur]; simp; omega
          · rw [rxAfter_tp, this.nb]; simp only [shiftIn_nb, rxAfter_nb, hnb s rfl, List.length_cons]; omega
          · intro h; exact this.complete (by simpa using h)
          · intro h; exact this.truncated (by simpa using h)
        · simp only [h0, if_false, Bool.false_eq_true]
          rw [bitLoop_idle _ (by simp)]
          exact ⟨rfl, rfl, rfl, fun h => by simp at h, fun _ => ⟨rfl, rfl⟩⟩

/-- The bits of ACC after `bs` arrived: the last at bit 42 (41_decoder.md R134). -/
theorem shiftBits_getLsbD (bs : List Bool) (acc : ProtocolWord) (hl : bs.length ≤ 43) (i : Nat) (hi : i < 43) :
    (shiftBits bs acc).getLsbD i =
      if 43 - bs.length ≤ i then bs.getD (i - (43 - bs.length)) false else acc.getLsbD (i + bs.length) := by
  induction bs using List.reverseRecOn generalizing i with
  | nil => simp [shiftBits]; omega
  | append_singleton bs b ih =>
    have hlen : bs.length + 1 ≤ 43 := by simpa using hl
    rw [shiftBits, List.foldl_append, List.foldl_cons, List.foldl_nil, shiftAcc_getLsbD]
    change (if i = 42 then b else (shiftBits bs acc).getLsbD (i + 1)) = _
    simp only [List.length_append, List.length_singleton]
    split_ifs with h1 h2 h3
    · subst h1
      rw [List.getD_eq_getElem?_getD, List.getElem?_append_right (by omega)]
      rw [show 42 - (43 - (bs.length + 1)) - bs.length = 0 by omega]
      rfl
    · omega
    · rw [ih (by omega) (i + 1) (by omega), if_pos (by omega), List.getD_eq_getElem?_getD, List.getD_eq_getElem?_getD,
        List.getElem?_append_left (by omega)]
      congr 2; omega
    · rw [ih (by omega) (i + 1) (by omega), if_neg (by omega)]
      congr 1; omega

/-- The bits of a word read first bit first. -/
theorem wordOfBits_getLsbD (bs : List Bool) (i : Nat) (hi : i < 43) : (wordOfBits bs).getLsbD i = bs.getD i false := by
  induction bs generalizing i with
  | nil => simp [wordOfBits]
  | cons b bs ih =>
    have h1 : (1 : ProtocolWord).getLsbD i = decide (i = 0) := by
      rw [show (1 : ProtocolWord) = BitVec.twoPow 43 0 by decide, BitVec.getLsbD_twoPow]; simp [eq_comm]
    have h0 : (0 : ProtocolWord).getLsbD i = false := BitVec.getLsbD_zero
    rw [wordOfBits, BitVec.getLsbD_or, BitVec.getLsbD_shiftLeft]
    cases i with
    | zero => cases b <;> simp
    | succ i =>
      have h2 : (if b = true then 1 else (0 : ProtocolWord)).getLsbD (i + 1) = false := by
        cases b
        · exact h0
        · simp
      rw [h2, Nat.add_sub_cancel, ih i (by omega)]
      simp [hi]

/-- After all 43 bits ACC is the received word, the first bit at bit 0 (41_decoder.md R134). -/
theorem shiftBits_complete (bs : List Bool) (acc : ProtocolWord) (hl : bs.length = 43) :
    shiftBits bs acc = wordOfBits bs := by
  refine BitVec.eq_of_getLsbD_eq fun i hi => ?_
  rw [shiftBits_getLsbD bs acc (by omega) i hi, wordOfBits_getLsbD bs i hi, if_pos (by omega)]
  congr 1; omega

/-- A word's own bits give the word back. -/
theorem wordOfBits_wordBits (word : ProtocolWord) : wordOfBits (wordBits word) = word := by
  refine BitVec.eq_of_getLsbD_eq fun i hi => ?_
  rw [wordOfBits_getLsbD _ i hi, wordBits, List.getD_eq_getElem?_getD, List.getElem?_map, List.getElem?_range hi]
  rfl

end Sys2Proof.Machine
end

