-- ==== Sys2Proof/Laws/Exec.lean ====
section
/-! SUPPORT. Everything exec and step can do, said once: the inversion lemmas later proofs take cases on. -/

namespace Sys2Proof.Machine

/-- The pure sub-operations: they return a value and write no register. -/
def isPure : Instr → Bool
  | .encode _ _ _ _ | .validate _ | .unpack _ => true
  | .nop | .wrtp _ _ | .rdtp _ | .transmit _ _ _ | .decode | .reservedCmd5 | .reservedCmd6 | .reservedCmd7 => false
  | .emit _ | .protocolWord _ _ _ _ => false
  | .frameOnAuto _ _ _ | .frameOnCool _ _ _ | .frameOnDry _ _ _ | .frameOnFan _ _ _ | .frameOnHeat _ _ _ => false
  | .frameOnRsv5 _ _ _ | .frameOnRsv6 _ _ _ | .frameOnRsv7 _ _ _ | .frameOff _ _ _ _ | .frameForeign _ _ => false
  | .symHeader _ | .symBit1 _ | .symBit0 _ | .symTrail _ => false

/-- The frame classes. -/
def isFrame : Instr → Bool
  | .frameOnAuto _ _ _ | .frameOnCool _ _ _ | .frameOnDry _ _ _ | .frameOnFan _ _ _ | .frameOnHeat _ _ _ => true
  | .frameOnRsv5 _ _ _ | .frameOnRsv6 _ _ _ | .frameOnRsv7 _ _ _ | .frameOff _ _ _ _ | .frameForeign _ _ => true
  | .nop | .wrtp _ _ | .rdtp _ | .transmit _ _ _ | .decode | .reservedCmd5 | .reservedCmd6 | .reservedCmd7 => false
  | .encode _ _ _ _ | .emit _ | .validate _ | .unpack _ | .protocolWord _ _ _ _ => false
  | .symHeader _ | .symBit1 _ | .symBit0 _ | .symTrail _ => false

/-- The symbols emitted. -/
def isEmitted : Instr → Bool
  | .symHeader d | .symBit1 d | .symBit0 d | .symTrail d => decide (d = .tx)
  | .nop | .wrtp _ _ | .rdtp _ | .transmit _ _ _ | .decode | .reservedCmd5 | .reservedCmd6 | .reservedCmd7 => false
  | .encode _ _ _ _ | .emit _ | .validate _ | .unpack _ | .protocolWord _ _ _ _ => false
  | .frameOnAuto _ _ _ | .frameOnCool _ _ _ | .frameOnDry _ _ _ | .frameOnFan _ _ _ | .frameOnHeat _ _ _ => false
  | .frameOnRsv5 _ _ _ | .frameOnRsv6 _ _ _ | .frameOnRsv7 _ _ _ | .frameOff _ _ _ _ | .frameForeign _ _ => false

/-- The ways an operation answers a next state. -/
inductive Did : Instr → State → State → Prop
  | nop (s) : Did .nop s s
  | wrtp (r v s) : Did (.wrtp (tpIndex r) v) s (writeTp r v s)
  | rdtp (r s) : tpMayRead s r = true → Did (.rdtp (tpIndex r)) s (withProfile [r] (fun s => setTpRdata (tpGet s.tp r) s) s)
  | transmit (m f v s) : Usable s → Did (.transmit m f v) s (withProfile allTp (runTransmit m f v) s)
  | decode (s) : Usable s → Did .decode s (withProfile allTp runDecode s)
  | pure (i r s) : isPure i = true → Did i s (setRet r s)
  | emit (w s) : Usable s → Did (.emit w) s (withProfile allTp (emitWord w) s)
  | protocolWord (o f c m s) : Did (.protocolWord o f c m) s (setW (assembleWord o f c m) s)
  | frame (i w s) : isFrame i = true → Did i s (receiveWord w s)
  | emitted (i rs) (c : State → TxCall) (s) : isEmitted i = true → Did i s (withProfile rs (fun s => txCall (c s) s) s)
  | rxHeader (s) : Did (.symHeader .rx) s (withProfile [.hm, .hs] (fun s => tryHeader (startDecode s)) s)
  | rxBit1 (s) : expectsBit s = true → Did (.symBit1 .rx) s (withProfile [.bm, .os] (fun s => (tryOne s).2) s)
  | rxBit0 (s) : expectsBit s = true → Did (.symBit0 .rx) s (withProfile [.bm, .zs] tryZero s)
  | rxBit1Ignored (s) : expectsBit s = false → Did (.symBit1 .rx) s s
  | rxBit0Ignored (s) : expectsBit s = false → Did (.symBit0 .rx) s s
  | rxTrail (s) : Did (.symTrail .rx) s s

/-- Inversion of exec. -/
theorem exec_did {i : Instr} {s t : State} (h : exec i s = .next t) : Did i s t := by
  cases i with
  | nop => cases h; exact .nop s
  | wrtp i v =>
    simp only [exec, execWrtp] at h
    split at h
    · cases h; rename_i hr; rw [tpOfIndex_eq_some.1 hr]; exact .wrtp ..
    · cases h
  | rdtp i =>
    simp only [exec, execRdtp] at h
    split at h
    · split at h
      · cases h
      · cases h; rename_i hr _ hu; rw [tpOfIndex_eq_some.1 hr]
        exact .rdtp _ _ (tpUnreadable_eq_none.1 hu _ (List.mem_singleton.2 rfl))
    · cases h
  | transmit m f v => obtain ⟨h1, rfl⟩ := withTp_next h; exact .transmit _ _ _ _ h1
  | decode => obtain ⟨h1, rfl⟩ := withTp_next h; exact .decode _ h1
  | reservedCmd5 => cases h
  | reservedCmd6 => cases h
  | reservedCmd7 => cases h
  | encode => cases h; exact .pure _ _ _ rfl
  | validate => cases h; exact .pure _ _ _ rfl
  | unpack => cases h; exact .pure _ _ _ rfl
  | emit w => obtain ⟨h1, rfl⟩ := withTp_next h; exact .emit _ _ h1
  | protocolWord => cases h; exact .protocolWord ..
  | symHeader d =>
    cases d <;> simp only [exec, execSymHeader] at h <;> obtain ⟨-, rfl⟩ := withTp_next h
    · exact .emitted _ _ (fun _ => _) _ rfl
    · exact .rxHeader s
  | symTrail d =>
    cases d
    · obtain ⟨-, rfl⟩ := withTp_next h; exact .emitted _ _ (fun _ => _) _ rfl
    · cases h; exact .rxTrail s
  | symBit1 d =>
    cases d
    · obtain ⟨-, rfl⟩ := withTp_next h; exact .emitted _ _ (fun _ => _) _ rfl
    · change execSymBit1 .rx s = _ at h
      rw [execSymBit1_rx] at h
      split at h
      · obtain ⟨-, rfl⟩ := withTp_next h; exact .rxBit1 s ‹_›
      · cases h; exact .rxBit1Ignored s (Bool.not_eq_true _ ▸ ‹¬expectsBit s = true›)
  | symBit0 d =>
    cases d
    · obtain ⟨-, rfl⟩ := withTp_next h; exact .emitted _ _ (fun _ => _) _ rfl
    · change execSymBit0 .rx s = _ at h
      rw [execSymBit0_rx] at h
      split at h
      · obtain ⟨-, rfl⟩ := withTp_next h; exact .rxBit0 s ‹_›
      · cases h; exact .rxBit0Ignored s (Bool.not_eq_true _ ▸ ‹¬expectsBit s = true›)
  | _ => cases h; exact .frame _ _ _ rfl

/-- Inversion of step: the codec idles, or it takes the next input and is reset, receives, or runs an operation. -/
theorem step_cases {s t : State} (h : step s = .next t) :
    (s.inputs = [] ∧ t = s) ∨ ∃ x rest, s.inputs = x :: rest ∧
      ((x = .reset ∧ t = doReset { s with inputs := rest }) ∨
       (∃ buf, x = .receive buf ∧ t = capture buf { s with inputs := rest }) ∨
       (∃ c i, x = .issue c ∧ decode c = .ok i ∧ exec i { s with inputs := rest } = .next t)) := by
  unfold step fetch at h
  cases hs : s.inputs with
  | nil => rw [hs] at h; cases h; exact .inl ⟨rfl, rfl⟩
  | cons x rest =>
    rw [hs] at h
    refine .inr ⟨x, rest, rfl, ?_⟩
    cases x with
    | reset => cases h; exact .inl ⟨rfl, rfl⟩
    | receive buf => cases h; exact .inr (.inl ⟨buf, rfl, rfl⟩)
    | issue c =>
      simp only at h
      split at h
      · exact .inr (.inr ⟨c, _, rfl, ‹_›, h⟩)
      · cases h

end Sys2Proof.Machine
end

