-- ==== Sys2Proof/Laws/PerInstr.lean ====
section
/-! SUPPORT. The per-instruction family TableRow: an instruction is written in the format of its row of
spec/opcode_table.json, with the row's fixed bits. -/

namespace Sys2Proof.Laws

/-- A well-formed instruction's encoding has its row's format; under the row's mask its bits are the row's match, and where a
word row has no match (FRAME_FOREIGN, the complement) they are not the signature (30_encoding.md R71, R78). -/
def TableRow.Statement (i : Instr) : Prop :=
  i.wf = true → codeFormat (encode i) = (tableRow i).format ∧
    match (tableRow i).fixed with
    | some m => codeBits (encode i) &&& (tableRow i).mask = m
    | none => codeFormat (encode i) = .word43 → codeBits (encode i) &&& (tableRow i).mask ≠ 0x25150000000

/-- The bits the mask of an on-frame keeps. -/
theorem masked_on (z : BitVec 16) (toff fan : BitVec 4) (mode : ModeCode) :
    (wordOfFields Config.sigField z toff fan 1 mode).toNat &&& 0x7FFF000000F =
      (wordOfFields Config.sigField 0 0 0 1 mode).toNat := by
  have : wordOfFields Config.sigField z toff fan 1 mode &&& 0x7FFF000000F =
      wordOfFields Config.sigField 0 0 0 1 mode := by
    refine BitVec.eq_of_getLsbD_eq fun i hi => ?_
    rw [BitVec.getLsbD_and, wordOfFields_getLsbD, wordOfFields_getLsbD]
    interval_cases i <;> simp [Config.sigField]
  rw [← this, BitVec.toNat_and]
  rfl

/-- The bits the mask of FRAME_OFF keeps. -/
theorem masked_off (z : BitVec 16) (toff fan : BitVec 4) (mode : ModeCode) :
    (wordOfFields Config.sigField z toff fan 0 mode).toNat &&& 0x7FFF0000008 = 0x25150000000 := by
  have : wordOfFields Config.sigField z toff fan 0 mode &&& 0x7FFF0000008 = 0x25150000000 := by
    refine BitVec.eq_of_getLsbD_eq fun i hi => ?_
    rw [BitVec.getLsbD_and, wordOfFields_getLsbD]
    interval_cases i <;> simp [Config.sigField]
  exact congrArg BitVec.toNat this

/-- The bits the mask of PROTOCOLWORD keeps. -/
theorem masked_word (toff fan : BitVec 4) (flag : BitVec 1) (mode : ModeCode) :
    (wordOfFields Config.sigField 0 toff fan flag mode).toNat &&& 0x7FFFFFFF000 = 0x25150000000 := by
  have : wordOfFields Config.sigField 0 toff fan flag mode &&& 0x7FFFFFFF000 = 0x25150000000 := by
    refine BitVec.eq_of_getLsbD_eq fun i hi => ?_
    rw [BitVec.getLsbD_and, wordOfFields_getLsbD]
    interval_cases i <;> simp [Config.sigField]
  exact congrArg BitVec.toNat this

/-- A foreign word is not the signature under SIGMASK. -/
theorem masked_foreign (sig : BitVec 15) (low : BitVec 28) (h : sig ≠ Config.sigField) :
    (sig ++ low : ProtocolWord).toNat &&& 0x7FFF0000000 ≠ 0x25150000000 := by
  intro hm
  apply h
  rw [← sigOf_append sig low, ← Machine.validateWord_iff]
  simp only [Machine.validateWord, beq_iff_eq]
  exact BitVec.eq_of_toNat_eq (by rw [BitVec.toNat_and]; exact hm)

theorem TableRow.nop : TableRow.Statement .nop := fun _ => ⟨rfl, rfl⟩
theorem TableRow.wrtp (idx : BitVec 3) (val : Dur) : TableRow.Statement (.wrtp idx val) :=
  fun _ => ⟨rfl, by simp [Sys2Proof.encode, codeBits, tableRow]⟩
theorem TableRow.rdtp (idx : BitVec 3) : TableRow.Statement (.rdtp idx) :=
  fun _ => ⟨rfl, by simp [Sys2Proof.encode, codeBits, tableRow]⟩
theorem TableRow.transmit (mode : Mode) (fan : Fan) (temp : BitVec 16) :
    TableRow.Statement (.transmit mode fan temp) := fun _ => ⟨rfl, by simp [Sys2Proof.encode, codeBits, tableRow]⟩
theorem TableRow.decode : TableRow.Statement .decode := fun _ => ⟨rfl, rfl⟩
theorem TableRow.reservedCmd5 : TableRow.Statement .reservedCmd5 := fun _ => ⟨rfl, rfl⟩
theorem TableRow.reservedCmd6 : TableRow.Statement .reservedCmd6 := fun _ => ⟨rfl, rfl⟩
theorem TableRow.reservedCmd7 : TableRow.Statement .reservedCmd7 := fun _ => ⟨rfl, rfl⟩
theorem TableRow.encode (mode : Mode) (fan : Fan) (temp : BitVec 16) (mb : ModeCode) :
    TableRow.Statement (.encode mode fan temp mb) := fun _ => ⟨rfl, fun h => by cases h⟩
theorem TableRow.emit (word : ProtocolWord) : TableRow.Statement (.emit word) := fun _ => ⟨rfl, fun h => by cases h⟩
theorem TableRow.validate (word : ProtocolWord) : TableRow.Statement (.validate word) :=
  fun _ => ⟨rfl, fun h => by cases h⟩
theorem TableRow.unpack (word : ProtocolWord) : TableRow.Statement (.unpack word) :=
  fun _ => ⟨rfl, fun h => by cases h⟩
theorem TableRow.protocolWord (toff fan : BitVec 4) (flag : BitVec 1) (mode : ModeCode) :
    TableRow.Statement (.protocolWord toff fan flag mode) := fun _ => ⟨rfl, masked_word toff fan flag mode⟩
theorem TableRow.frameOnAuto (z : BitVec 16) (toff fan : BitVec 4) : TableRow.Statement (.frameOnAuto z toff fan) :=
  fun _ => ⟨rfl, masked_on z toff fan 0⟩
theorem TableRow.frameOnCool (z : BitVec 16) (toff fan : BitVec 4) : TableRow.Statement (.frameOnCool z toff fan) :=
  fun _ => ⟨rfl, masked_on z toff fan 1⟩
theorem TableRow.frameOnDry (z : BitVec 16) (toff fan : BitVec 4) : TableRow.Statement (.frameOnDry z toff fan) :=
  fun _ => ⟨rfl, masked_on z toff fan 2⟩
theorem TableRow.frameOnFan (z : BitVec 16) (toff fan : BitVec 4) : TableRow.Statement (.frameOnFan z toff fan) :=
  fun _ => ⟨rfl, masked_on z toff fan 3⟩
theorem TableRow.frameOnHeat (z : BitVec 16) (toff fan : BitVec 4) : TableRow.Statement (.frameOnHeat z toff fan) :=
  fun _ => ⟨rfl, masked_on z toff fan 4⟩
theorem TableRow.frameOnRsv5 (z : BitVec 16) (toff fan : BitVec 4) : TableRow.Statement (.frameOnRsv5 z toff fan) :=
  fun _ => ⟨rfl, masked_on z toff fan 5⟩
theorem TableRow.frameOnRsv6 (z : BitVec 16) (toff fan : BitVec 4) : TableRow.Statement (.frameOnRsv6 z toff fan) :=
  fun _ => ⟨rfl, masked_on z toff fan 6⟩
theorem TableRow.frameOnRsv7 (z : BitVec 16) (toff fan : BitVec 4) : TableRow.Statement (.frameOnRsv7 z toff fan) :=
  fun _ => ⟨rfl, masked_on z toff fan 7⟩
theorem TableRow.frameOff (z : BitVec 16) (toff fan : BitVec 4) (mode : ModeCode) :
    TableRow.Statement (.frameOff z toff fan mode) := fun _ => ⟨rfl, masked_off z toff fan mode⟩
theorem TableRow.frameForeign (sig : BitVec 15) (low : BitVec 28) : TableRow.Statement (.frameForeign sig low) :=
  fun h => ⟨rfl, fun _ => masked_foreign sig low (by simpa [Instr.wf] using h)⟩
theorem TableRow.symHeader (dir : Dir) : TableRow.Statement (.symHeader dir) := fun _ => ⟨rfl, fun h => by cases h⟩
theorem TableRow.symBit1 (dir : Dir) : TableRow.Statement (.symBit1 dir) := fun _ => ⟨rfl, fun h => by cases h⟩
theorem TableRow.symBit0 (dir : Dir) : TableRow.Statement (.symBit0 dir) := fun _ => ⟨rfl, fun h => by cases h⟩
theorem TableRow.symTrail (dir : Dir) : TableRow.Statement (.symTrail dir) := fun _ => ⟨rfl, fun h => by cases h⟩

end Sys2Proof.Laws
end

