-- ==== Sys2Proof/Tests/Slice0.lean ====
section
/-! SUPPORT. The model's own tests. Expected values are the vectors of spec/95_test_vectors.md (named in each comment) or words
written out from the encodings of spec/30_encoding.md. After them, for every statement with hypotheses, a state that meets them. -/

namespace Sys2Proof.Tests

open Sys2Proof Sys2Proof.Machine

/-! ### Helpers -/

/-- EX of 95_test_vectors.md. -/
def ex : TimingProfile := { hm := 8000, hs := 4000, bm := 600, os := 1600, zs := 550 }

/-- After reset, TP = EX, Match equality. -/
def ready : State :=
  { State.reset with
    tp := ex
    tpWritten := { hm := true, hs := true, bm := true, os := true, zs := true }
    cfg := { tie := .halfUp, tolerance := .exact, carrierHz := 38000, unwritten := .refused } }

/-- The next state of an operation, if there is one. -/
def after (i : Instr) (s : State) : Option State :=
  match exec i s with
  | .next t => some t
  | .fault _ => none
  | .refused _ => none

/-- The refusal of an operation, if it is refused. -/
def refusal (i : Instr) (s : State) : Option Refusal :=
  match exec i s with
  | .next _ => none
  | .fault _ => none
  | .refused r => some r

/-- F(w) of 95_test_vectors.md, from the bits of a number. -/
def pulsesOf (w : Nat) : List Pulse :=
  { mark := 8000, space := 4000 } ::
    (List.range 43).map fun i => { mark := 600, space := if w.testBit i then 1600 else 550 }

/-- TP = EX and a captured buffer. -/
def holding (buf : List Pulse) : State := { ready with rx := { buf := buf, cur := 0 } }

/-- What a DECODE of a buffer ends with: RES, NB and the number of RxMatch calls. -/
def verdict (s : State) : Option (Res × Nat × Nat) :=
  (after .decode s).map fun t => (t.res, t.nb.toNat, t.events.countP isRxMatch)

/-- The code of RES, NB, the number of RxMatch calls, and OUT's mode, fan and temperature. -/
def decoded (s : State) : Option (List Nat) :=
  (after .decode s).map fun t =>
    [(resCode t.res).toNat, t.nb.toNat, t.events.countP isRxMatch, t.out.mode.toNat, t.out.fan.toNat, t.out.temp.toNat]

/-- The word ENCODE returns, and the new mode-before code. -/
def encoded (mode : Mode) (fan : Fan) (temp mb : Nat) : Option (Nat × Nat) :=
  (after (.encode mode fan (BitVec.ofNat 16 temp) (BitVec.ofNat 3 mb)) ready).bind fun t =>
    match t.ret with
    | .encode w m => some (w.toNat, m.toNat)
    | .none => none
    | .validate _ => none
    | .unpack _ => none

/-! ### WellFormed refuses an ill-formed term, one per check -/

theorem test_wf_wrtp_index : Instr.wf (.wrtp 5 1) = false ∧ Instr.wf (.wrtp 4 0) = true := by decide
theorem test_wf_rdtp_index : Instr.wf (.rdtp 7) = false ∧ Instr.wf (.rdtp 4) = true := by decide
theorem test_wf_foreign : Instr.wf (.frameForeign 0b010010100010101 0) = false ∧
    Instr.wf (.frameForeign 0b010010100010100 0) = true := by decide

/-! ### Decoding: words written out bit by bit from 30_encoding.md -/

/-- The command codes of R78, three bits each. -/
theorem test_decode_commands :
    [0b000, 0b001, 0b010, 0b011, 0b100, 0b101, 0b110, 0b111].map (decodeTableWord 8) =
      [some .nop, some (.wrtp 0 0), some (.rdtp 0), some (.transmit .off .auto 0), some .decode,
        some .reservedCmd5, some .reservedCmd6, some .reservedCmd7] := by decide

/-- The frame classes of R71: signature, z = 1, offset 2, fan 3, flag, mode. -/
theorem test_decode_frames_on :
    [0b010010100010101_0000000000000001_0010_0011_1_000, 0b010010100010101_0000000000000001_0010_0011_1_001,
      0b010010100010101_0000000000000001_0010_0011_1_010, 0b010010100010101_0000000000000001_0010_0011_1_011,
      0b010010100010101_0000000000000001_0010_0011_1_100].map (decodeTableWord 48) =
      [some (.frameOnAuto 1 2 3), some (.frameOnCool 1 2 3), some (.frameOnDry 1 2 3), some (.frameOnFan 1 2 3),
        some (.frameOnHeat 1 2 3)] := by decide

theorem test_decode_frames_other :
    [0b010010100010101_0000000000000001_0010_0011_1_101, 0b010010100010101_0000000000000001_0010_0011_1_110,
      0b010010100010101_0000000000000001_0010_0011_1_111, 0b010010100010101_0000000000000001_0010_0011_0_101,
      0b110010100010101_0000000000000001_0010_0011_0_101].map (decodeTableWord 48) =
      [some (.frameOnRsv5 1 2 3), some (.frameOnRsv6 1 2 3), some (.frameOnRsv7 1 2 3), some (.frameOff 1 2 3 5),
        some (.frameForeign 0b110010100010101 0b0000000000000001_0010_0011_0_101)] := by decide

/-- The word as the Encoder writes it: offset 6, fan 4, flag 1, mode 1. -/
theorem test_decode_encoderWord :
    decode (.encoderWord 0b010010100010101_0000000000000000_0110_0100_1_001) = .ok (.protocolWord 6 4 1 1) ∧
      decode (.encoderWord 0b010010100010101_0000000000000001_0110_0100_1_001) = .error .notEncoderWord := by decide

/-- Sub-operations and wire symbols have no code: they are written by name (R69, R78). -/
theorem test_decode_subops :
    decode (.subop (.encode .cool .high 0x1600 2)) = .ok (.encode .cool .high 0x1600 2) ∧
      decode (.subop (.emit 5)) = .ok (.emit 5) ∧ decode (.subop (.validate 5)) = .ok (.validate 5) ∧
      decode (.subop (.unpack 5)) = .ok (.unpack 5) := by decide

theorem test_decode_symbols :
    decode (.symbol .tx .header) = .ok (.symHeader .tx) ∧ decode (.symbol .rx .bit1) = .ok (.symBit1 .rx) ∧
      decode (.symbol .rx .bit0) = .ok (.symBit0 .rx) ∧ decode (.symbol .tx .trail) = .ok (.symTrail .tx) := by decide

/-- Command lines of R84, with the port values of V63 and P2. -/
theorem test_assemble :
    (assemble (.wrtp (.name .zs) 560)).map decodeCommand = some (.wrtp 0b100 0x00000230) ∧
      (assemble (.rdtp (.number 4))).map decodeCommand = some (.rdtp 0b100) ∧
      (assemble (.transmit .dry .medium (18 * 256))).map decodeCommand = some (.transmit .dry .medium 0x1200) ∧
      assemble (.rdtp (.number 5)) = none := by decide

/-- What no format holds. -/
theorem test_decode_rejects :
    decodeTableWord 8 8 = none ∧ decodeTableWord 48 (2 ^ 43) = none ∧ decodeTableWord 56 0 = none := by decide

/-! ### ENCODE -/

/-- V1, V10 (one row of each mode), V14. -/
theorem test_encode_words :
    encoded .cool .high 0x1600 6 = some (0x25150000649, 1) ∧ encoded .heat .low 0x1800 0 = some (0x2515000081C, 4) ∧
      encoded .auto .medium 0x1800 0 = some (0x25150000828, 0) ∧ encoded .dry .middle 0x1800 0 = some (0x2515000083A, 2) ∧
      encoded .fanOnly .auto 0x1800 0 = some (0x2515000088B, 3) ∧ encoded .off .low 0x1800 5 = some (0x25150000815, 5) ∧
      encoded .unrecognized6 .unrecognized5 0x2800 2 = some (0x25150000E82, 2) := by decide +kernel

/-- V12: the corners of the temperature, half_up. -/
theorem test_encode_temperatures :
    [0x8000, 0xFB00, 0x0FFF, 0x1000, 0x1040, 0x1080, 0x117F, 0x1680, 0x16C0, 0x1D80, 0x1E80, 0x7FFF].map
        (fun t => (encoded .heat .auto t 0).map (fun r => r.1 / 256 % 16)) =
      [some 0, some 0, some 0, some 0, some 0, some 1, some 1, some 7, some 7, some 14, some 14, some 14] := by
  decide +kernel

/-- V12's remark: under half_even 16.5 gives 0, 22.5 gives 6 and 29.5 gives 14. -/
theorem test_encode_half_even :
    [0x1080, 0x1680, 0x1D80].map (fun t => tempOffset .halfEven (BitVec.ofNat 16 t)) = [0, 6, 14] := by decide +kernel

/-! ### EMIT, TRANSMIT -/

/-- V20: the string of the 43 bits, bit 0 first. -/
def v20Bits : List Nat :=
  [1,0,0,1,0,0,1,0,0,1,1, 0,0,0,0,0,0,0,0,0,0,0,0,0,0,0,0,0, 1,0,1,0,1,0,0,0,1,0,1,0,0,1,0]

/-- V20: the calls of EMIT. -/
theorem test_emit_calls :
    (after (.emit 0x25150000649) ready).map (·.events) =
      some ([Event.tx (.pulse 8000 4000)] ++
        v20Bits.map (fun b => Event.tx (.pulse 600 (if b = 1 then 1600 else 550))) ++ [Event.tx (.mark 600)]) := by
  decide +kernel

/-- EMIT does not validate (V22), but it is not run on a register never written (U1). -/
theorem test_emit_unchecked :
    ((after (.emit 0) ready).map (fun t => t.tx.frame.length)) = some 89 ∧
      refusal (.emit 0) { ready with tpWritten := { ready.tpWritten with zs := false } } = some (.tpUnwritten .zs) := by
  decide +kernel

/-- V21 and P1: the length of the frame, the word sent, MB, and the ends of the trace. -/
theorem test_transmit :
    (after (.transmit .cool .high 0x1600) ready).map
        (fun t => (frameLength t.tx.frame, t.w.toNat, t.mb.toNat, t.events.length)) =
      some (73600, 0x25150000649, 1, 48) ∧
    (after (.transmit .cool .high 0x1600) ready).map (fun t => t.events.take 1 ++ t.events.drop 46) =
      some [.tx (.begin 38000), .tx .send, .publishSent .cool .high 0x1600 0] := by
  decide +kernel

/-- P2, steps 3 and 6; V71: Off and an unrecognized mode keep MB. -/
theorem test_transmit_keeps_mb :
    (after (.transmit .off .low 0x1500) { ready with mb := 4 }).map (fun t => (t.w.toNat, t.mb.toNat)) =
        some (0x25150000514, 4) ∧
      (after (.transmit .unrecognized7 .unrecognized7 0x2800) { ready with mb := 2 }).map
        (fun t => (t.w.toNat, t.mb.toNat)) = some (0x25150000E82, 2) ∧
      (after (.transmit .off .low 0x1000) ready).map (fun t => (t.w.toNat, t.mb.toNat)) = some (0x25150000010, 0) := by
  decide +kernel

/-! ### DECODE -/

/-- V30, V40, V41, V43, V44, V45, V46: accepted frames. -/
theorem test_decode_accepts :
    [0x25150000649, 0x25150000000, 0x2515000064D, 0x251500006F9, 0x2515FFFF649, 0x25150000F49, 0x2515FFFFFFF].map
        (fun w => decoded (holding (pulsesOf w))) =
      [some [0, 43, 76, 1, 4, 22], some [0, 43, 81, 0, 0, 16], some [0, 43, 75, 0, 4, 22],
        some [0, 43, 73, 1, 0, 22], some [0, 43, 60, 1, 4, 22], some [0, 43, 74, 1, 4, 31],
        some [0, 43, 53, 0, 0, 31]] := by decide +kernel

/-- V31 to V39, V51: rejected frames. -/
theorem test_decode_rejects_frames :
    [(pulsesOf 0x25150000649).set 0 { mark := 7000, space := 4000 },
      (pulsesOf 0x25150000649).set 21 { mark := 600, space := 3000 }, (pulsesOf 0x25150000649).take 21,
      (pulsesOf 0x25150000649).take 1, (pulsesOf 0x25150000649).take 43, [], pulsesOf 0x25140000649, pulsesOf 0,
      pulsesOf 0x65150000649, (pulsesOf 0x25150000649).set 5 { mark := 700, space := 550 }].map
        (fun b => verdict (holding b)) =
      [some (.headerMismatch, 0, 1), some (.truncatedFrame, 20, 38), some (.truncatedFrame, 20, 38),
        some (.truncatedFrame, 0, 3), some (.truncatedFrame, 42, 76), some (.headerMismatch, 0, 1),
        some (.signatureMismatch, 43, 77), some (.signatureMismatch, 43, 87), some (.signatureMismatch, 43, 75),
        some (.truncatedFrame, 4, 9)] := by decide +kernel

/-- V49's buffer: every mark times 1.1, every space times 0.9, rounded down. -/
def jittered : List Pulse :=
  (pulsesOf 0x25150000649).map fun p =>
    { mark := BitVec.ofNat 32 (p.mark.toNat * 11 / 10), space := BitVec.ofNat 32 (p.space.toNat * 9 / 10) }

/-- V48, V49, V50: the receiver's tolerance. -/
theorem test_decode_tolerance :
    verdict { holding (pulsesOf 0x25150000649) with cfg := { ready.cfg with tolerance := .absolute 1100 } } =
        some (.signatureMismatch, 43, 44) ∧
      decoded { holding jittered with cfg := { ready.cfg with tolerance := .scaled 4 } } =
        some [0, 43, 76, 1, 4, 22] ∧
      verdict (holding jittered) = some (.headerMismatch, 0, 1) := by decide +kernel

/-- V52: the accumulator after each of the bits 1, 0, 0, 1. -/
theorem test_accumulator :
    let a := shiftAcc true 0
    a = 0x40000000000 ∧ shiftAcc false a = 0x20000000000 ∧ shiftAcc false (shiftAcc false a) = 0x10000000000 ∧
      shiftAcc true (shiftAcc false (shiftAcc false a)) = 0x48000000000 := by decide

/-- V31, V32, V37, V30 on the ports: the code on `res`, `nb`, and `mb_out` (P4: MB stays). -/
theorem test_output_ports :
    [pulsesOf 0x25150000649, [], (pulsesOf 0x25150000649).set 21 { mark := 600, space := 3000 },
      pulsesOf 0x25140000649].map (fun b => (after .decode { holding b with mb := 3 }).map
        (fun t => ((outputs t).res.toNat, (outputs t).nb.toNat, (outputs t).mbOut.toNat))) =
      [some (0, 43, 3), some (1, 0, 3), some (2, 20, 3), some (3, 43, 3)] := by decide +kernel

/-! ### VALIDATE, UNPACK -/

/-- V1, V37, V44: the signature check. -/
theorem test_validate :
    [0x25150000649, 0x25140000649, 0x2515FFFF649, 0].map
        (fun w => (after (.validate w) ready).map (·.ret)) =
      [some (.validate true), some (.validate false), some (.validate true), some (.validate false)] := by decide +kernel

/-- V1's second half, V42, V45. -/
theorem test_unpack :
    [0x25150000649, 0x25150000645, 0x25150000F49].map (fun w => (after (.unpack w) ready).map (·.ret)) =
      [some (.unpack ⟨1, 4, 22, 0⟩), some (.unpack ⟨0, 4, 22, 0⟩), some (.unpack ⟨1, 4, 31, 0⟩)] := by decide +kernel

/-! ### NOP, WRTP, RDTP, the reserved codes, reset -/

/-- V60, V61, V62, V65: the register commands. -/
theorem test_registers :
    (after (.wrtp 0 8000) State.reset).map (fun t => (t.tp.hm, t.tpWritten.hm, t.tpWritten.hs)) =
        some (8000, true, false) ∧
      (after (.rdtp 0) ready).map (·.tpRdata) = some 8000 ∧
      refusal (.rdtp 1) State.reset = some (.tpUnwritten .hs) ∧ exec .nop State.reset = .next State.reset := by
  refine ⟨?_, ?_, ?_, rfl⟩ <;> decide +kernel

/-- After reset, with reads of registers not written not refused. -/
def unrefused : State := { State.reset with cfg := { ready.cfg with unwritten := .unspecified } }

/-- R171's "unspecified value", where it is not refused: a free value, anew each time; the register stays. -/
theorem test_unwritten_read :
    (after (.rdtp 1) unrefused).map (·.tpRdata) = some (Config.freeDur 0 .hs) ∧
      ((after (.rdtp 1) unrefused).bind (after (.rdtp 1))).map (fun t => (t.tpRdata, t.tp)) =
        some (Config.freeDur 1 .hs, unrefused.tp) := ⟨rfl, rfl⟩

/-- V64, V66, V67. -/
theorem test_refusals :
    refusal (.wrtp 5 1) ready = some (.tpIndexUnmapped 5) ∧ refusal (.rdtp 6) ready = some (.tpIndexUnmapped 6) ∧
      refusal .reservedCmd6 ready = some (.reservedCommand 6) ∧
      (after (.wrtp 3 0xFFFFFFFF) { ready with mb := 3 }).map (fun t => (t.tp.os.toNat, t.mb.toNat)) =
        some (4294967295, 3) := by decide +kernel

/-- V70: reset from MB = 4, RES = 2, NB = 20; TRANSMIT and DECODE are refused then. -/
theorem test_reset :
    (match step { ready with mb := 4, res := .truncatedFrame, nb := 20, inputs := [.reset] } with
      | .next t => some (t.mb.toNat, t.res, t.nb.toNat, refusal (.transmit .cool .high 0x1600) t, refusal .decode t)
      | .fault _ => none
      | .refused _ => none) = some (0, .ok, 0, some (.tpUnwritten .hm), some (.tpUnwritten .hm)) := by decide +kernel

/-- R207: a zero duration. -/
theorem test_zero_duration :
    refusal .decode { ready with tp := { ex with zs := 0 } } = some (.tpZero .zs) ∧
      refusal (.transmit .cool .high 0x1600) { ready with tp := { ex with hm := 0 } } = some (.tpZero .hm) ∧
      (after (.rdtp 4) { ready with tp := { ex with zs := 0 } }).map (·.tpRdata) = some 0 := by decide +kernel

/-! ### PROTOCOLWORD, the frame classes, the symbols -/

/-- V1's field by field. -/
theorem test_protocolWord :
    (after (.protocolWord 6 4 1 1) ready).map (·.w.toNat) = some 0x25150000649 := by decide +kernel

/-- V30, V41, V42, V44 by their frame class: decoded mode, fan and temperature; V37: a foreign one. -/
theorem test_frame_classes :
    [Instr.frameOnCool 0 6 4, .frameOnRsv5 0 6 4, .frameOff 0 6 4 5, .frameOnCool 0xFFFF 6 4].map
        (fun i => (after i ready).map (fun t => (t.res, t.out.mode.toNat, t.out.fan.toNat, t.out.temp.toNat))) =
      [some (.ok, 1, 4, 22), some (.ok, 0, 4, 22), some (.ok, 0, 4, 22), some (.ok, 1, 4, 22)] ∧
    (after (.frameForeign 0x2514 0x649) ready).map (fun t => (t.res, t.nb.toNat)) =
      some (.signatureMismatch, 43) := by decide +kernel

/-- The rest of the mode table (41_decoder.md R139). -/
theorem test_frame_modes :
    [Instr.frameOnAuto 0 6 4, .frameOnDry 0 6 4, .frameOnFan 0 6 4, .frameOnHeat 0 6 4, .frameOnRsv6 0 6 4,
      .frameOnRsv7 0 6 4].map (fun i => (after i ready).map (·.out.mode.toNat)) =
      [some 3, some 4, some 5, some 2, some 0, some 0] := by decide +kernel

/-- R69: each symbol's call. -/
theorem test_symbols_emitted :
    [Instr.symHeader .tx, .symBit1 .tx, .symBit0 .tx, .symTrail .tx].map (fun i => (after i ready).map (·.events)) =
      [some [.tx (.pulse 8000 4000)], some [.tx (.pulse 600 1600)], some [.tx (.pulse 600 550)],
        some [.tx (.mark 600)]] := by decide +kernel

/-- A machine that expects bit 42 of V1's word, one pair left. -/
def expecting (p : Pulse) : State := { holding [p] with fsm := .expectBit, nb := 42 }

/-- R133, R145: the one-space, the zero-space, and neither, at the last bit. -/
theorem test_symbols_received :
    (after (.symBit1 .rx) (expecting ⟨600, 1600⟩)).map (fun t => (t.fsm, t.nb.toNat, t.acc.toNat)) =
        some (.frameComplete, 43, 2 ^ 42) ∧
      (after (.symBit0 .rx) (expecting ⟨600, 550⟩)).map (fun t => (t.fsm, t.nb.toNat, t.acc.toNat)) =
        some (.frameComplete, 43, 0) ∧
      (after (.symBit0 .rx) (expecting ⟨600, 3000⟩)).map (fun t => (t.fsm, t.res, t.nb.toNat)) =
        some (.failed, .truncatedFrame, 42) ∧
      (after (.symHeader .rx) (holding [⟨7000, 4000⟩])).map (fun t => (t.fsm, t.res)) =
        some (.failed, .headerMismatch) := by decide +kernel

/-! ### Running a word of the table -/

/-- The host's question: the table's words of NOP, WRTP and FRAME_ON_COOL as the first step after reset. -/
theorem test_table_words_run :
    step (State.reset.withFetchWord 8 0) = .next State.reset ∧
      (match step (State.reset.withFetchWord 8 1) with
        | .next t => t.tpWritten.hm | .fault _ => false | .refused _ => false) = true ∧
      (match step (State.reset.withFetchWord 48 0x25150000649) with
        | .next t => some t.out | .fault _ => none | .refused _ => none) = some ⟨1, 4, 22, 0⟩ := by
  refine ⟨rfl, by decide +kernel, by decide +kernel⟩

/-! ### Every statement with hypotheses: a state and operands that meet them all -/

theorem ready_ready : Ready ready := by decide +kernel

theorem decode_runs {s : State} (h : Ready s) : exec .decode s = .next (runDecode s) := by
  simp only [exec, execDecode]; exact Machine.withTp_ready h

theorem emit_runs {s : State} (w : ProtocolWord) (h : Ready s) : exec (.emit w) s = .next (emitWord w s) := by
  simp only [exec, execEmit]; exact Machine.withTp_ready h

theorem step_runs : step (issueNext (.command { cmd := 4 }) ready) = .next (runDecode ready) := decode_runs ready_ready

theorem matchRefl_exact : MatchRefl .exact := fun d => by simp [toleranceMatches]

/-- The frame of V1's word, after which two pairs follow. -/
def longer : State := holding (pulsesOf 0x25150000649 ++ [⟨600, 550⟩, ⟨600, 550⟩])

/-- Only the registers of one symbol are written. -/
def partly (f : TpFlags) : State := { ready with tpWritten := f }

theorem witness_NopChangesNothing : ({ cmd := 0, tpIdx := 7 } : Ports).cmd = 0 := rfl

theorem witness_WrtpWritesOneRegister : ({ cmd := 1 } : Ports).cmd = 1 ∧ (4 < (5#3).toNat) ∧ (4 < (7#3).toNat) := by
  decide

theorem witness_RdtpReadsOneRegister :
    ({ cmd := 2 } : Ports).cmd = 2 ∧ tpIsWritten ready.tpWritten .zs = true ∧
      tpIsWritten State.reset.tpWritten .hm = false ∧ State.reset.cfg.unwritten = .refused ∧
      tpIsWritten unrefused.tpWritten .hm = false ∧ unrefused.cfg.unwritten = .unspecified ∧ 4 < (5#3).toNat := by decide

theorem witness_RdtpReadsBackLastWrtp :
    ∃ t u, exec (.wrtp (tpIndex .hm) 8000) State.reset = .next t ∧ exec (.wrtp (tpIndex .hs) 4000) t = .next u ∧
      ∀ x, Instr.wrtp (tpIndex .hs) 4000 ≠ .wrtp (tpIndex .hm) x :=
  ⟨_, _, rfl, rfl, fun x h => by injection h with h1 _; exact absurd h1 (by decide)⟩

theorem witness_ReservedCommandsRefused : 4 < ({ cmd := 5 } : Ports).cmd.toNat ∧ 4 < ({ cmd := 7 } : Ports).cmd.toNat := by
  decide

/-- TemperatureFieldIsNearest: both tie rules, at 16.5 and 17.5 degrees; under half_even 16.5 is a tie met. -/
theorem witness_TemperatureFieldIsNearest :
    ready.cfg.tie = .halfUp ∧ ({ ready.cfg with tie := .halfEven } : Cfg).tie = .halfEven ∧
      (0x1080 : BitVec 16).toInt - 256 * (16 + ((tempOffset .halfEven 0x1080).toNat : Int)) = 128 ∧
      (0x1180 : BitVec 16).toInt - 256 * (16 + ((tempOffset .halfEven 0x1180).toNat : Int)) = -128 := by decide +kernel

theorem witness_EmitMakesTheFrame : Ready ready := ready_ready
theorem witness_EmitIsItsSymbols : Ready ready := ready_ready
theorem witness_TransmitEncodesSendsPublishes : ({ cmd := 3 } : Ports).cmd = 3 ∧ Ready ready := ⟨rfl, ready_ready⟩
theorem witness_TransmittedFrameShape : Ready ready := ready_ready
theorem witness_FrameLengthFormula : Ready ready := ready_ready
theorem witness_DecodeMeetsItsContract : Ready longer := ready_ready
/-- OutputPortsReportTheDecode: each result of the contract (V30, V36, V35, V37). -/
theorem witness_OutputPortsReportTheDecode :
    Ready longer ∧ (decodeContract .exact ex (pulsesOf 0x25150000649)).toOption = some ⟨1, 4, 22, 0⟩ ∧
      decodeContract .exact ex [] = .error .headerMismatch ∧
      decodeContract .exact ex ((pulsesOf 0x25150000649).take 43) = .error (.truncated 42) ∧
      decodeContract .exact ex (pulsesOf 0x25140000649) = .error .signatureMismatch :=
  ⟨ready_ready, by decide +kernel, rfl, by decide +kernel, by decide +kernel⟩

theorem witness_DecodeFrameRule : Ready longer := ready_ready
theorem witness_DecodeIsItsSymbols : Ready longer := ready_ready
theorem witness_TransmitAndDecodeCommute : Ready longer := ready_ready

theorem witness_EmitIsInjective : tpIsWritten ready.tpWritten .os = true ∧ tpIsWritten ready.tpWritten .zs = true ∧
    ready.tp.os ≠ ready.tp.zs ∧ ∃ t u, exec (.emit 0x649) ready = .next t ∧
    exec (.emit 0x649) ready = .next u ∧ t.tx.frame = u.tx.frame :=
  ⟨rfl, rfl, by decide, _, _, emit_runs 0x649 ready_ready, emit_runs 0x649 ready_ready, rfl⟩

/-- EmittedSymbolsAreOneCall, one clause each: the other registers are not written. -/
theorem witness_EmittedSymbolsAreOneCall :
    (∀ r ∈ [TpReg.hm, .hs], tpIsWritten (partly ⟨true, true, false, false, false⟩).tpWritten r = true ∧
      tpGet ready.tp r ≠ 0) ∧
    (∀ r ∈ [TpReg.bm, .os], tpIsWritten (partly ⟨false, false, true, true, false⟩).tpWritten r = true ∧
      tpGet ready.tp r ≠ 0) ∧
    (∀ r ∈ [TpReg.bm, .zs], tpIsWritten (partly ⟨false, false, true, false, true⟩).tpWritten r = true ∧
      tpGet ready.tp r ≠ 0) ∧
    (∀ r ∈ [TpReg.bm], tpIsWritten (partly ⟨false, false, true, false, false⟩).tpWritten r = true ∧
      tpGet ready.tp r ≠ 0) := by decide

theorem witness_TransmitCarriesTheModeCode :
    Ready ready ∧ onCode .heat = some 4 ∧ onCode .auto = some 0 ∧ onCode .off = none ∧ onCode .unrecognized7 = none :=
  ⟨ready_ready, rfl, rfl, rfl, rfl⟩

/-- HeaderMismatchEndsDecode: V36's empty buffer and V31's header. -/
theorem witness_HeaderMismatchEndsDecode :
    (Ready (holding []) ∧ ∀ q, (holding []).rx.buf.head? = some q →
      pulseMatches ready.cfg.tolerance ready.tp.hm ready.tp.hs q = false) ∧
    (Ready (holding [⟨7000, 4000⟩]) ∧ ∀ q, (holding [⟨7000, 4000⟩]).rx.buf.head? = some q →
      pulseMatches ready.cfg.tolerance ready.tp.hm ready.tp.hs q = false) :=
  ⟨⟨ready_ready, fun q h => by cases h⟩, ready_ready, fun q h => by cases h; decide⟩

/-- TruncatedFrameReportsBits: no bit (V34) and 42 bits (V35). -/
theorem witness_TruncatedFrameReportsBits :
    Ready (holding (pulsesOf 0x649)) ∧ pulseMatches .exact ex.hm ex.hs ⟨8000, 4000⟩ = true ∧
      (readBits .exact ex 43 []).length = 0 ∧
      (readBits .exact ex 43 ((pulsesOf 0x25150000649).tail.take 42)).length = 42 :=
  ⟨ready_ready, by decide +kernel, rfl, by decide +kernel⟩

/-- SignatureMismatchEndsDecode: V37. -/
theorem witness_SignatureMismatchEndsDecode :
    Ready (holding (pulsesOf 0x25140000649)) ∧ pulseMatches .exact ex.hm ex.hs ⟨8000, 4000⟩ = true ∧
      (readBits .exact ex 43 (pulsesOf 0x25140000649).tail).length = 43 ∧
      (wordOfBits (readBits .exact ex 43 (pulsesOf 0x25140000649).tail)).extractLsb' 28 15 ≠ 0x2515 :=
  ⟨ready_ready, by decide +kernel, by decide +kernel, by decide +kernel⟩

/-- SuccessfulDecodePublishes: V30. -/
theorem witness_SuccessfulDecodePublishes :
    Ready (holding (pulsesOf 0x25150000649)) ∧ pulseMatches .exact ex.hm ex.hs ⟨8000, 4000⟩ = true ∧
      (readBits .exact ex 43 (pulsesOf 0x25150000649).tail).length = 43 ∧
      (wordOfBits (readBits .exact ex 43 (pulsesOf 0x25150000649).tail)).extractLsb' 28 15 = 0x2515 :=
  ⟨ready_ready, by decide +kernel, by decide +kernel, by decide +kernel⟩

/-- CallCounts: a DECODE that ends in a header mismatch and one that ends Ok. -/
theorem witness_CallCounts :
    Ready ready ∧ (after .decode (holding [])).map (·.res) = some .headerMismatch ∧
      (after .decode longer).map (·.res) = some .ok := ⟨ready_ready, by decide +kernel, by decide +kernel⟩

theorem witness_ValidFramesDecode :
    (Instr.frameOff 0xFFFF 15 15 7, Mode.off, 0x25150000007) ∈
      [(Instr.frameOnRsv7 0xFFFF 15 15, Mode.off, 0x2515000000F), (.frameOff 0xFFFF 15 15 7, .off, 0x25150000007)] := by
  decide

theorem witness_ForeignFrameRejected : (0x2514 : BitVec 15) ≠ 0x2515 ∧ (0 : BitVec 15) ≠ 0x2515 := by decide

theorem witness_UncheckedBitsIgnored :
    exec (.encode .cool .high 0x1600 0) ready = .next { ready with ret := .encode 0x25150000649 1 } ∧
    (0x2515FFFF649 : ProtocolWord).extractLsb' 28 15 = 0x2515 ∧
    (0x25150000649 : ProtocolWord) &&& 0x7FFF0000FFF = 0x2515FFFF649 &&& 0x7FFF0000FFF ∧
      ∃ t u, exec (decodeFrame 0x25150000649) ready = .next t ∧ exec (decodeFrame 0x2515FFFF649) ready = .next u :=
  ⟨rfl, by decide, by decide, _, _, rfl, rfl⟩

/-- ReceivedSymbolsFollowTheTable: the first and the last bit index, a header pair, and no bit expected. -/
theorem witness_ReceivedSymbolsFollowTheTable :
    Ready (expecting ⟨600, 1600⟩) ∧ (expecting ⟨600, 1600⟩).fsm = .expectBit ∧ (expecting ⟨600, 1600⟩).nb.toNat = 42 ∧
      ({ expecting ⟨600, 550⟩ with nb := 0 } : State).nb.toNat < 43 ∧ longer.fsm ≠ .expectBit :=
  ⟨ready_ready, rfl, rfl, by decide, by decide⟩

theorem witness_RoundTripLaw :
    Ready longer ∧ MatchRefl longer.cfg.tolerance ∧ Distinct longer.cfg.tolerance longer.tp ∧
      exec (.encode .cool .high 0x1600 0) longer = .next { longer with ret := .encode 0x25150000649 1 } ∧
      longer.rx.buf = framePulses longer.tp 0x25150000649 ++ [⟨600, 550⟩, ⟨600, 550⟩] ∧
      (0x1600 : BitVec 16) = BitVec.ofNat 16 (256 * 22) ∧ (0x1000 : BitVec 16) = BitVec.ofNat 16 (256 * 16) ∧
      (0x1E00 : BitVec 16) = BitVec.ofNat 16 (256 * 30) :=
  ⟨ready_ready, matchRefl_exact, by decide +kernel, rfl, by decide +kernel, by decide, by decide, by decide⟩

/-- LoopBackLaw: its premises, and whole temperatures at both ends. -/
theorem witness_LoopBackLaw : Ready ready ∧ MatchRefl ready.cfg.tolerance ∧ Distinct ready.cfg.tolerance ready.tp ∧
    (0x1000 : BitVec 16) = BitVec.ofNat 16 (256 * 16) ∧ (0x1E00 : BitVec 16) = BitVec.ofNat 16 (256 * 30) :=
  ⟨ready_ready, matchRefl_exact, by decide +kernel, by decide, by decide⟩

/-- InseparableSpacesReadOnes: V48. -/
theorem witness_InseparableSpacesReadOnes :
    Ready { longer with cfg := { ready.cfg with tolerance := .absolute 1100 } } ∧ MatchRefl (.absolute 1100) ∧
      toleranceMatches (.absolute 1100) ex.os ex.zs = true ∧
      longer.rx.buf = framePulses ex 0x25150000649 ++ [⟨600, 550⟩, ⟨600, 550⟩] :=
  ⟨ready_ready, fun d => by simp [toleranceMatches, durDistance], by decide +kernel, by decide +kernel⟩

/-- PairsAfterTheFrameIgnored: exactly 44 pairs. -/
theorem witness_PairsAfterTheFrameIgnored :
    44 ≤ (holding (pulsesOf 0x25150000649)).rx.buf.length ∧ ∃ t, exec .decode (holding (pulsesOf 0x25150000649)) = .next t :=
  ⟨by decide +kernel, _, decode_runs ready_ready⟩

theorem witness_DecodeEncodeAgree : Instr.wf (.wrtp 4 0xFFFFFFFF) = true ∧ Instr.wf (.frameForeign 0x2514 0) = true := by
  decide

theorem witness_EveryWordHasOneFrameClass :
    Instr.wf (.frameOnCool 0 6 4) = true ∧ encode (.frameOnCool 0 6 4) = .frame 0x25150000649 := by decide

theorem witness_StepRunsTheDecodedInstruction : decode (.command { cmd := 4 }) = .ok .decode := rfl

theorem witness_StepOnHostEvents : ready.inputs = [] := rfl

/-- UnwrittenProfileRefused, one clause each: the last register alone not written; a written one; five writes in another order. -/
theorem witness_UnwrittenProfileRefused :
    (ready.cfg.unwritten = .refused ∧ tpIsWritten (partly ⟨true, true, true, true, false⟩).tpWritten .zs = false) ∧
    tpIsWritten (partly ⟨true, true, true, true, false⟩).tpWritten .os = true ∧
    (∀ r : TpReg, r ∈ [(TpReg.zs, (550 : Dur)), (.hs, 4000), (.hm, 8000), (.os, 1600), (.bm, 600)].map (·.1)) ∧
    (∀ w ∈ [(TpReg.zs, (550 : Dur)), (.hs, 4000), (.hm, 8000), (.os, 1600), (.bm, 600)], w.2 ≠ 0) :=
  ⟨by decide, by decide, fun r => by cases r <;> decide, by decide⟩

/-- ZeroDurationRefused: the last register written with 0, all of them readable; and the first alone, the others not written. -/
theorem witness_ZeroDurationRefused :
    (tpMayRead { ready with tp := { ex with zs := 0 } } .zs = true ∧ tpRead { ready with tp := { ex with zs := 0 } } .zs = 0 ∧
      ∀ q ∈ allTp, tpMayRead { ready with tp := { ex with zs := 0 } } q = true) ∧
    tpMayRead (writeTp .hm 0 State.reset) .hm = true ∧ tpRead (writeTp .hm 0 State.reset) .hm = 0 ∧
    tpIsWritten (writeTp .hm 0 State.reset).tpWritten .hm = true := by decide +kernel

theorem ready_usable : Usable ready := usable_of_ready ready_ready

/-- Registers not written, where their use is not refused: usable for every draw without a 0. -/
theorem unrefused_usable (h : ∀ r, Config.freeDur 0 r ≠ 0) : Usable unrefused := fun r _ => by
  cases r <;> exact ⟨rfl, h _⟩

theorem witness_EveryOperationCompletes : Usable ready ∧ Ready ready ∧ Instr.wf (.rdtp 4) = true ∧
    isReserved (.rdtp 4) = false := ⟨ready_usable, ready_ready, rfl, rfl⟩

theorem witness_UnwrittenRegistersReadFreely : Usable ready ∧ ((∀ r, Config.freeDur 0 r ≠ 0) → Usable unrefused) :=
  ⟨ready_usable, unrefused_usable⟩

/-- SymbolsOnUnwrittenRegisters: where a bit is expected, the first and the last. -/
theorem witness_SymbolsOnUnwrittenRegisters : Usable { ready with fsm := .expectBit } ∧
    ({ ready with fsm := .expectBit } : State).nb.toNat < 43 ∧ Usable { ready with fsm := .expectBit, nb := 42 } ∧
    (42#6).toNat < 43 := by decide +kernel

theorem ready_inv : Inv ready := by decide +kernel

/-- StepKeepsTheInvariant, and the other statements about a step: a machine asked for a DECODE. -/
theorem witness_StepKeepsTheInvariant :
    Inv (issueNext (.command { cmd := 4 }) ready) ∧ ∃ t, step (issueNext (.command { cmd := 4 }) ready) = .next t :=
  ⟨ready_inv, _, step_runs⟩

theorem witness_NoStepLeavesADecodeOpen :
    HostKeepsInterface (issueNext (.command { cmd := 4 }) ready) ∧
      NoDecodeOpen (issueNext (.command { cmd := 4 }) ready) ∧
      ∃ t, step (issueNext (.command { cmd := 4 }) ready) = .next t :=
  ⟨rfl, .inl rfl, _, step_runs⟩

theorem witness_StepTakesOneInput : ∃ t, step (issueNext (.command { cmd := 4 }) ready) = .next t :=
  ⟨_, step_runs⟩

theorem witness_StepKeepsTheParameters : ∃ t, step (issueNext (.command { cmd := 4 }) ready) = .next t :=
  ⟨_, step_runs⟩

theorem witness_OnlyTransmitWritesMb : ∃ t, exec .decode longer = .next t ∧
    (∀ m f v, Instr.decode ≠ .transmit m f v) ∧ ∀ o f c m, Instr.decode ≠ .protocolWord o f c m :=
  ⟨_, decode_runs ready_ready, fun _ _ _ h => (by cases h), fun _ _ _ _ h => (by cases h)⟩

theorem witness_OnlyWrtpWritesTheTimingProfile : ∃ t, exec .decode longer = .next t ∧
    ∀ r v, Instr.decode ≠ .wrtp r v := ⟨_, decode_runs ready_ready, fun _ _ h => by cases h⟩

theorem witness_OnlyTheDecoderWritesResults :
    ∃ t, exec (.emit 0x649) ready = .next t ∧ isDecoders (.emit 0x649) = false :=
  ⟨_, emit_runs _ ready_ready, rfl⟩

theorem witness_PublishOncePerSuccess : ∃ t, exec .decode longer = .next t ∧ endsDecode .decode = true :=
  ⟨_, decode_runs ready_ready, rfl⟩

theorem witness_ReceptionCannotReachTheEncoder :
    Ready ready ∧ ∃ u c, exec .decode (capture (pulsesOf 0x25150000649) ready) = .next u ∧
      exec .decode (capture [] ready) = .next c :=
  ⟨ready_ready, _, _, decode_runs ready_ready, decode_runs ready_ready⟩

end Sys2Proof.Tests
end

section
/-! PROOFS of the family 00_scope.md: the parameters stay (R6, R30), and a step runs the operation issued (R10, R54). -/

namespace Sys2Proof.Machine

/-! ### The parameters -/

/-- An operation that keeps the parameters keeps them on unwritten registers too. -/
theorem withProfile_cfg {f : State → State} (hf : ∀ s, (f s).cfg = s.cfg) (rs : List TpReg) (s : State) :
    (withProfile rs f s).cfg = s.cfg := by
  obtain ⟨-, h⟩ | ⟨-, h⟩ := withProfile_cases rs f s
  · rw [h, hf]
  · rw [h]; exact hf { s with tp := tpProfile s }

@[simp] theorem emitWord_cfg (word : ProtocolWord) (s : State) : (emitWord word s).cfg = s.cfg := by
  rw [emitWord_eq]

@[simp] theorem runTransmit_cfg (mode : Mode) (fan : Fan) (temp : BitVec 16) (s : State) :
    (runTransmit mode fan temp s).cfg = s.cfg := by
  rw [runTransmit_eq]

/-- No operation changes the parameters: the Decoder's operations keep all but its own registers, the others write one register
each or make calls of the transmitter. -/
theorem exec_cfg {i : Instr} {s t : State} (h : exec i s = .next t) : t.cfg = s.cfg := by
  cases exec_did h with
  | nop | rxBit1Ignored | rxBit0Ignored | rxTrail => rfl
  | wrtp | pure | protocolWord => simp
  | rdtp => exact withProfile_cfg (fun _ => setTpRdata_cfg ..) ..
  | transmit => exact withProfile_cfg (runTransmit_cfg _ _ _) ..
  | emit => exact withProfile_cfg (emitWord_cfg _) ..
  | emitted => exact withProfile_cfg (fun _ => txCall_cfg ..) ..
  | decode => exact withProfile_cfg (fun s => (runDecode_keeps s).cfg) ..
  | frame _ word => exact (receiveWord_keeps word s).cfg
  | rxHeader => exact withProfile_cfg (fun s => (tryHeader_keeps (startDecode s)).cfg) ..
  | rxBit1 => exact withProfile_cfg (fun s => (tryOne_keeps s).cfg) ..
  | rxBit0 => exact withProfile_cfg (fun s => (tryZero_keeps s).cfg) ..

/-- Settles O53: by what a step can do; a reset and a reception keep the parameters, and so does every operation. -/
theorem stepKeepsTheParameters : Obligations.StepKeepsTheParameters := by
  intro s t h
  obtain ⟨-, rfl⟩ | ⟨x, rest, -, ⟨-, rfl⟩ | ⟨buf, -, rfl⟩ | ⟨c, i, -, -, hexec⟩⟩ := step_cases h
  · rfl
  · exact doReset_cfg _
  · exact capture_cfg _ buf
  · exact (exec_cfg hexec :)

/-! ### The operation issued -/

/-- What is issued next is what the step takes, and taking it leaves the state as it was before. -/
@[simp] theorem fetch_issueNext (c : Code) (s : State) : fetch (issueNext c s) = some (.issue c, s) := rfl

/-- Settles O41: the step fetches the operation issued, and its code decodes to the instruction. -/
theorem stepRunsTheDecodedInstruction : Obligations.StepRunsTheDecodedInstruction := by
  intro c i s hdecode
  simp only [step, fetch_issueNext, hdecode]

end Sys2Proof.Machine
end

section
/-! PROOFS of the family 10_state.md, the facts: an operation on a profile, what each operation keeps, and the transitions that keep
the invariant. -/

namespace Sys2Proof.Machine

/-! ### The parts of the state that belong together -/

/-- The registers only the Decoder writes, and the receiver (R25 to R27, R46). -/
structure DecoderSide where
  res : Res
  nb : BitVec 6
  out : Out
  acc : ProtocolWord
  fsm : Fsm
  rx : Receiver

def decoderSide (s : State) : DecoderSide where
  res := s.res
  nb := s.nb
  out := s.out
  acc := s.acc
  fsm := s.fsm
  rx := s.rx

/-- The Timing Profile and its marks (10_state.md R23). -/
def timing (s : State) : TimingProfile × TpFlags := (s.tp, s.tpWritten)

/-- The registers the Encoder keeps between operations (R22, R24). -/
def encoderRegs (s : State) : ModeCode × ProtocolWord := (s.mb, s.w)

theorem decoderSide_eq_iff {s t : State} : decoderSide t = decoderSide s ↔
    t.res = s.res ∧ t.nb = s.nb ∧ t.out = s.out ∧ t.acc = s.acc ∧ t.fsm = s.fsm ∧ t.rx = s.rx := by
  simp only [decoderSide, DecoderSide.mk.injEq]

theorem timing_eq_iff {s t : State} : timing t = timing s ↔ t.tp = s.tp ∧ t.tpWritten = s.tpWritten := by
  simp only [timing, Prod.mk.injEq]

theorem encoderRegs_eq_iff {s t : State} : encoderRegs t = encoderRegs s ↔ t.mb = s.mb ∧ t.w = s.w := by
  simp only [encoderRegs, Prod.mk.injEq]

/-! ### An operation on a profile (R31, R171) -/

/-- What an operation does on the registers themselves it does on a profile, where neither the condition nor the conclusion looks
at the registers, and the conclusion not at the count of draws. -/
theorem withProfile_transfer {P Q : State → Prop} (hP : ∀ s p, P s → P { s with tp := p })
    (hQ : ∀ s p d, Q s → Q { s with tp := p, draws := d }) {f : State → State} (hf : ∀ s, P s → Q (f s))
    (rs : List TpReg) {s : State} (h : P s) : Q (withProfile rs f s) := by
  obtain ⟨-, heq⟩ | ⟨-, heq⟩ := withProfile_cases rs f s
  · rw [heq]; exact hf s h
  · rw [heq]; exact hQ _ _ _ (hf _ (hP _ _ h))

/-- An operation that keeps a part of the state, other than the registers and the count of draws, keeps it on a profile. -/
theorem withProfile_part {α : Type} (g : State → α) (hg : ∀ s p d, g { s with tp := p, draws := d } = g s)
    {f : State → State} (hf : ∀ s, g (f s) = g s) (rs : List TpReg) (s : State) : g (withProfile rs f s) = g s :=
  withProfile_transfer (P := (g · = g s)) (Q := (g · = g s)) (fun u p h => (hg u p u.draws).trans h)
    (fun u p d h => (hg u p d).trans h) (fun u h => (hf u).trans h) rs rfl

/-- Where every register was written nothing is drawn. -/
theorem withProfile_allWritten {s : State} (h : ∀ r, tpIsWritten s.tpWritten r = true) (rs : List TpReg)
    (f : State → State) : withProfile rs f s = f s :=
  withProfile_written f (List.all_eq_true.2 fun r _ => h r)

/-- An operation that keeps the registers and their marks keeps them on a profile: what it reads is not stored. -/
theorem withProfile_timing {f : State → State} (hf : ∀ s, timing (f s) = timing s) (rs : List TpReg) (s : State) :
    timing (withProfile rs f s) = timing s := by
  obtain ⟨-, heq⟩ | ⟨-, heq⟩ := withProfile_cases rs f s
  · rw [heq, hf]
  · rw [heq]
    exact timing_eq_iff.2 ⟨rfl, (timing_eq_iff.1 (hf { s with tp := tpProfile s })).2⟩

/-! ### What the steps of an operation keep -/

theorem DecoderKeeps.timing {s t : State} (h : DecoderKeeps s t) : timing t = timing s :=
  timing_eq_iff.2 ⟨h.tp, h.tpWritten⟩

theorem DecoderKeeps.encoderRegs {s t : State} (h : DecoderKeeps s t) : encoderRegs t = encoderRegs s :=
  encoderRegs_eq_iff.2 ⟨h.mb, h.w⟩

@[simp] theorem emitWord_timing (word : ProtocolWord) (s : State) : timing (emitWord word s) = timing s := by
  rw [emitWord_eq]; rfl

@[simp] theorem emitWord_encoderRegs (word : ProtocolWord) (s : State) :
    encoderRegs (emitWord word s) = encoderRegs s := by rw [emitWord_eq]; rfl

@[simp] theorem emitWord_decoderSide (word : ProtocolWord) (s : State) :
    decoderSide (emitWord word s) = decoderSide s := by rw [emitWord_eq]; rfl

@[simp] theorem emitWord_draws (word : ProtocolWord) (s : State) : (emitWord word s).draws = s.draws := by
  rw [emitWord_eq]

@[simp] theorem runTransmit_timing (mode : Mode) (fan : Fan) (temp : BitVec 16) (s : State) :
    timing (runTransmit mode fan temp s) = timing s := by rw [runTransmit_eq]; rfl

@[simp] theorem runTransmit_decoderSide (mode : Mode) (fan : Fan) (temp : BitVec 16) (s : State) :
    decoderSide (runTransmit mode fan temp s) = decoderSide s := by rw [runTransmit_eq]; rfl

@[simp] theorem runTransmit_draws (mode : Mode) (fan : Fan) (temp : BitVec 16) (s : State) :
    (runTransmit mode fan temp s).draws = s.draws := by rw [runTransmit_eq]

/-! ### What each operation keeps -/

theorem isDecoders_of_isFrame {i : Instr} (h : isFrame i = true) : isDecoders i = true := by
  cases i <;> simp_all [isFrame, isDecoders]

theorem not_isDecoders_of_isPure {i : Instr} (h : isPure i = true) : isDecoders i = false := by
  cases i <;> simp_all [isPure, isDecoders]

theorem not_isDecoders_of_isEmitted {i : Instr} (h : isEmitted i = true) : isDecoders i = false := by
  cases i <;> simp_all [isEmitted, isDecoders]

/-- An operation of the Decoder writes nothing but the Decoder's. -/
theorem exec_decoderKeeps {i : Instr} {s t : State} (h : exec i s = .next t) (hd : isDecoders i = true) :
    DecoderKeeps s t := by
  cases exec_did h with
  | nop | wrtp | rdtp | transmit | emit | protocolWord => cases hd
  | pure _ _ _ hi => simp [not_isDecoders_of_isPure hi] at hd
  | emitted _ _ _ _ hi => simp [not_isDecoders_of_isEmitted hi] at hd
  | decode => exact DecoderKeeps.withProfile runDecode_keeps ..
  | frame _ word => exact receiveWord_keeps word s
  | rxHeader => exact DecoderKeeps.withProfile (fun s => (DecoderKeeps.startDecode s).trans (tryHeader_keeps _)) ..
  | rxBit1 => exact DecoderKeeps.withProfile tryOne_keeps ..
  | rxBit0 => exact DecoderKeeps.withProfile tryZero_keeps ..
  | rxBit1Ignored | rxBit0Ignored | rxTrail => exact .refl s

/-- Every other operation writes nothing of the Decoder's and leaves the receiver. -/
theorem exec_decoderSide {i : Instr} {s t : State} (h : exec i s = .next t) (hd : isDecoders i = false) :
    decoderSide t = decoderSide s := by
  have part {f : State → State} (hf : ∀ s, decoderSide (f s) = decoderSide s) (rs : List TpReg) (s : State) :=
    withProfile_part decoderSide (fun _ _ _ => rfl) hf rs s
  cases exec_did h with
  | nop | wrtp | pure | protocolWord => rfl
  | rdtp => exact part (fun _ => by rfl) ..
  | transmit => exact part (runTransmit_decoderSide _ _ _) ..
  | emit => exact part (emitWord_decoderSide _) ..
  | emitted => exact part (fun _ => by rfl) ..
  | frame _ _ _ hi => simp [isDecoders_of_isFrame hi] at hd
  | decode | rxHeader | rxBit1 | rxBit0 | rxBit1Ignored | rxBit0Ignored | rxTrail => cases hd

/-- An operation that is not the Decoder's draws a free value only for a timing register not written (R31). -/
theorem exec_draws {i : Instr} {s t : State} (h : exec i s = .next t) (hd : isDecoders i = false)
    (hw : ∀ r, tpIsWritten s.tpWritten r = true) : t.draws = s.draws := by
  cases exec_did h with
  | nop | wrtp | pure | protocolWord => rfl
  | rdtp | emitted => rw [withProfile_allWritten hw]; rfl
  | transmit => rw [withProfile_allWritten hw, runTransmit_draws]
  | emit => rw [withProfile_allWritten hw, emitWord_draws]
  | frame _ _ _ hi => simp [isDecoders_of_isFrame hi] at hd
  | decode | rxHeader | rxBit1 | rxBit0 | rxBit1Ignored | rxBit0Ignored | rxTrail => cases hd

/-- Every operation but WRTP keeps the timing registers and their marks (R23, R173). -/
theorem exec_timing {i : Instr} {s t : State} (h : exec i s = .next t) (hi : ∀ r v, i ≠ .wrtp r v) :
    timing t = timing s := by
  cases exec_did h with
  | nop | pure | protocolWord | rxBit1Ignored | rxBit0Ignored | rxTrail => rfl
  | wrtp => exact absurd rfl (hi _ _)
  | rdtp => exact withProfile_timing (fun _ => by rfl) ..
  | transmit => exact withProfile_timing (runTransmit_timing _ _ _) ..
  | emit => exact withProfile_timing (emitWord_timing _) ..
  | emitted => exact withProfile_timing (fun _ => by rfl) ..
  | decode | rxHeader | rxBit1 | rxBit0 => exact (exec_decoderKeeps h rfl).timing
  | frame _ _ _ hf => exact (exec_decoderKeeps h (isDecoders_of_isFrame hf)).timing

/-- Every operation but TRANSMIT and PROTOCOLWORD keeps MB and W (R22, R24, R190). -/
theorem exec_encoderRegs {i : Instr} {s t : State} (h : exec i s = .next t) (ht : ∀ m f v, i ≠ .transmit m f v)
    (hp : ∀ o f c m, i ≠ .protocolWord o f c m) : encoderRegs t = encoderRegs s := by
  have part {f : State → State} (hf : ∀ s, encoderRegs (f s) = encoderRegs s) (rs : List TpReg) (s : State) :=
    withProfile_part encoderRegs (fun _ _ _ => rfl) hf rs s
  cases exec_did h with
  | nop | wrtp | pure | rxBit1Ignored | rxBit0Ignored | rxTrail => rfl
  | transmit => exact absurd rfl (ht _ _ _)
  | protocolWord => exact absurd rfl (hp _ _ _ _)
  | rdtp => exact part (fun _ => by rfl) ..
  | emit => exact part (emitWord_encoderRegs _) ..
  | emitted => exact part (fun _ => by rfl) ..
  | decode | rxHeader | rxBit1 | rxBit0 => exact (exec_decoderKeeps h rfl).encoderRegs
  | frame _ _ _ hf => exact (exec_decoderKeeps h (isDecoders_of_isFrame hf)).encoderRegs

/-! ### The transitions that keep the invariant (R22, R26, R27, R47, R134, R145, R180) -/

/-- ModeMap writes a mapped code if MB is one (R102, R103). -/
theorem modeMap_snd_le (mode : Mode) {mb : ModeCode} (h : mb.toNat ≤ 4) : (modeMap mode mb).2.toNat ≤ 4 := by
  cases mode with
  | off | unrecognized6 | unrecognized7 => exact h
  | cool | heat | auto | dry | fanOnly => simp [modeMap]

/-- One more bit leaves one zero fewer at the low end of ACC (R134). -/
theorem shiftAcc_low_zeros (b : Bool) {acc : ProtocolWord} {k : Nat} (hk : k < 43)
    (h : acc.toNat % 2 ^ (k + 1) = 0) : (shiftAcc b acc).toNat % 2 ^ k = 0 := by
  have hhalf : acc.toNat / 2 % 2 ^ k = 0 := by
    rw [← Nat.mod_mul_right_div_self, ← Nat.pow_succ', h]
  have htop : (if b then 0x40000000000 else 0 : ProtocolWord).toNat % 2 ^ k = 0 := by
    cases b with
    | false => simp
    | true => exact Nat.mod_eq_zero_of_dvd (Nat.pow_dvd_pow 2 (by omega : k ≤ 42))
  rw [shiftAcc, BitVec.toNat_or, Nat.or_mod_two_pow, htop, BitVec.toNat_ushiftRight, Nat.shiftRight_one, hhalf]
  rfl

/-- The Decoder's registers are coherent where a bit is expected, if ACC's low bits are zero. -/
theorem coherent_expectBit {s : State} (hf : s.fsm = .expectBit) (hnb : s.nb.toNat < 43)
    (hacc : s.acc.toNat % 2 ^ (43 - s.nb.toNat) = 0) : DecoderCoherent s := by
  simp [DecoderCoherent, hf, hnb, hacc]

/-- They are where the frame is complete, if 43 bits were counted. -/
theorem coherent_frameComplete {s : State} (hf : s.fsm = .frameComplete) (hnb : s.nb = 43) : DecoderCoherent s := by
  simp [DecoderCoherent, hf, hnb]

theorem nb_of_expectHeader {s : State} (h : Inv s) (hf : s.fsm = .expectHeader) : s.nb = 0 := by
  obtain ⟨-, -, -, -, hheader, -⟩ := h
  exact (hheader hf).1

theorem nb_lt_of_expectBit {s : State} (h : Inv s) (hf : s.fsm = .expectBit) : s.nb.toNat < 43 := by
  obtain ⟨-, -, -, -, -, hbit, -⟩ := h
  exact (hbit hf).1

theorem nb_of_frameComplete {s : State} (h : Inv s) (hf : s.fsm = .frameComplete) : s.nb = 43 := by
  obtain ⟨-, -, -, -, -, -, hcomplete, -⟩ := h
  exact hcomplete hf

theorem inv_reset : Inv State.reset := by decide

theorem inv_doReset {s : State} (h : Inv s) : Inv (doReset s) := by
  obtain ⟨hmb, hidx, -, hswing, hdec⟩ := inv_reset
  obtain ⟨-, -, hcur, -, -⟩ := h
  exact ⟨hmb, hidx, hcur, hswing, hdec⟩

theorem inv_capture (buf : List Pulse) {s : State} (h : Inv s) : Inv (capture buf s) := by
  obtain ⟨hmb, hidx, -, hswing, hdec⟩ := h
  exact ⟨hmb, hidx, Nat.zero_le _, hswing, hdec⟩

theorem inv_emitWord (word : ProtocolWord) {s : State} (h : Inv s) : Inv (emitWord word s) := by
  obtain ⟨hmb, -, hcur, hswing, hdec⟩ := h
  rw [emitWord_eq]
  exact ⟨hmb, (by decide : 42 ≤ 42), hcur, hswing, hdec⟩

theorem inv_runTransmit (mode : Mode) (fan : Fan) (temp : BitVec 16) {s : State} (h : Inv s) :
    Inv (runTransmit mode fan temp s) := by
  obtain ⟨hmb, -, hcur, hswing, hdec⟩ := h
  rw [runTransmit_eq]
  exact ⟨modeMap_snd_le mode hmb, (by decide : 42 ≤ 42), hcur, hswing, hdec⟩

theorem inv_startDecode {s : State} (h : Inv s) : Inv (startDecode s) := by
  obtain ⟨hmb, hidx, -, hswing, -⟩ := h
  exact ⟨hmb, hidx, Nat.zero_le _, hswing, by simp [DecoderCoherent]⟩

/-- A call of RxMatch moves the cursor only past a pair that is there (R47). -/
theorem inv_rxAfter {em es : Dur} {b : Bool} {s : State} (h : Inv s) (hb : b = true → s.rx.cur < s.rx.buf.length) :
    Inv (rxAfter em es b s) := by
  obtain ⟨hmb, hidx, hcur, hswing, hdec⟩ := h
  refine ⟨hmb, hidx, ?_, hswing, hdec⟩
  cases b with
  | false => exact hcur
  | true => exact hb rfl

theorem inv_headerMatched {s : State} (h : Inv s) (hf : s.fsm = .expectHeader) : Inv (headerMatched s) := by
  obtain ⟨hmb, hidx, hcur, hswing, hheader, -⟩ := h
  exact ⟨hmb, hidx, hcur, hswing, by simp [DecoderCoherent, hheader hf]⟩

/-- One matched bit: ACC takes it at the top, and the 43rd completes the frame. -/
theorem inv_shiftIn (b : Bool) {s : State} (h : Inv s) (hf : s.fsm = .expectBit) : Inv (shiftIn b s) := by
  obtain ⟨hmb, hidx, hcur, hswing, -, hbit, -⟩ := h
  obtain ⟨hnb, hacc⟩ := hbit hf
  have hsucc : (s.nb + 1).toNat = s.nb.toNat + 1 := by bv_omega
  refine ⟨hmb, hidx, hcur, hswing, ?_⟩
  by_cases h43 : s.nb + 1 = 43
  · exact coherent_frameComplete (if_pos h43) h43
  · have hne : (s.nb + 1).toNat ≠ 43 := fun h => h43 (BitVec.eq_of_toNat_eq h)
    have hk : 43 - (s.nb + 1).toNat + 1 = 43 - s.nb.toNat := by omega
    exact coherent_expectBit (if_neg h43) (by rw [shiftIn_nb]; omega)
      (shiftAcc_low_zeros b (k := 43 - (s.nb + 1).toNat) (by omega) (hk ▸ hacc))

/-- An error is recorded with the NB it admits (R180). -/
theorem inv_raise {e : Res} {s : State} (h : Inv s)
    (he : (e = .headerMismatch ∧ s.nb = 0) ∨ (e = .truncatedFrame ∧ s.nb.toNat < 43) ∨
      (e = .signatureMismatch ∧ s.nb = 43 ∧ validateWord s.acc = false)) : Inv (raise e s) := by
  obtain ⟨hmb, hidx, hcur, -, -⟩ := h
  exact ⟨hmb, hidx, hcur, rfl, by simpa [DecoderCoherent] using he⟩

/-- Ok is recorded with NB 43, a valid ACC and its unpacked state (R143). -/
theorem inv_succeed {s : State} (h : Inv s) (hnb : s.nb = 43) (hv : validateWord s.acc = true) :
    Inv (succeed (unpackWord s.acc) s) := by
  obtain ⟨hmb, hidx, hcur, -, -⟩ := h
  exact ⟨hmb, hidx, hcur, rfl, by simp [DecoderCoherent, hnb, hv]⟩

theorem inv_completeFrame (word : ProtocolWord) {s : State} (h : Inv s) : Inv (completeFrame word s) := by
  obtain ⟨hmb, hidx, hcur, hswing, -⟩ := h
  exact ⟨hmb, hidx, hcur, hswing, by simp [DecoderCoherent]⟩

/-- The complete frame ends in Done with its unpacked state, or in Failed with SignatureMismatch (R143, R144). -/
theorem inv_finishFrame {s : State} (h : Inv s) (hf : s.fsm = .frameComplete) : Inv (finishFrame s) := by
  have hnb := nb_of_frameComplete h hf
  rw [finishFrame_eq]
  split
  next hv => exact inv_succeed h hnb hv
  next hv => exact inv_raise h (.inr (.inr ⟨rfl, hnb, by simpa using hv⟩))

/-! ### The Decoder's operations keep the invariant -/

/-- Expect-Header, from the start of a DECODE (R131, R132). -/
theorem inv_tryHeader {s : State} (h : Inv s) (hf : s.fsm = .expectHeader) : Inv (tryHeader s) := by
  rw [tryHeader_eq]
  split
  next ha => exact inv_headerMatched (inv_rxAfter h fun _ => rxAnswer_true ha) hf
  next => exact inv_raise (inv_rxAfter h nofun) (.inl ⟨rfl, nb_of_expectHeader h hf⟩)

/-- The one-space try, where a bit is expected (R133). -/
theorem inv_tryOne {s : State} (h : Inv s) (hf : s.fsm = .expectBit) : Inv (tryOne s).2 := by
  rw [tryOne_eq]
  split
  next ha => exact inv_shiftIn true (inv_rxAfter h fun _ => rxAnswer_true ha) hf
  next => exact inv_rxAfter h nofun

/-- The zero-space try, where a bit is expected (R133, R135). -/
theorem inv_tryZero {s : State} (h : Inv s) (hf : s.fsm = .expectBit) : Inv (tryZero s) := by
  rw [tryZero_eq]
  split
  next ha => exact inv_shiftIn false (inv_rxAfter h fun _ => rxAnswer_true ha) hf
  next => exact inv_raise (inv_rxAfter h nofun) (.inr (.inl ⟨rfl, nb_lt_of_expectBit h hf⟩))

theorem inv_bitStep {s : State} (h : Inv s) (hf : s.fsm = .expectBit) : Inv (bitStep s) := by
  rw [bitStep_eq]
  split
  next ha => exact inv_shiftIn true (inv_rxAfter h fun _ => rxAnswer_true ha) hf
  next => exact inv_tryZero (inv_rxAfter h nofun) hf

theorem inv_bitLoop (n : Nat) {s : State} (h : Inv s) : Inv (bitLoop n s) := by
  induction n generalizing s with
  | zero => exact h
  | succ n ih =>
    rw [bitLoop]
    split
    next hf => exact ih (inv_bitStep h hf)
    next => exact h

theorem inv_runDecode {s : State} (h : Inv s) : Inv (runDecode s) := by
  have hloop := inv_bitLoop 43 (inv_tryHeader (inv_startDecode h) rfl)
  unfold runDecode finishIfComplete
  split
  next hf => exact inv_finishFrame hloop hf
  next => exact hloop

theorem inv_receiveWord (word : ProtocolWord) {s : State} (h : Inv s) : Inv (receiveWord word s) :=
  inv_finishFrame (inv_completeFrame word h) rfl

/-- An operation on a profile keeps the invariant, which does not speak of the registers. -/
theorem inv_withProfile {f : State → State} (hf : ∀ {s}, Inv s → Inv (f s)) (rs : List TpReg) {s : State} (h : Inv s) :
    Inv (withProfile rs f s) :=
  withProfile_transfer (fun _ _ h => h) (fun _ _ _ h => h) (fun _ h => hf h) rs h

/-- So does one that runs only where a bit is expected. -/
theorem inv_withProfile_expectBit {f : State → State} (hf : ∀ {s}, Inv s → s.fsm = .expectBit → Inv (f s))
    (rs : List TpReg) {s : State} (h : Inv s) (he : expectsBit s = true) : Inv (withProfile rs f s) :=
  withProfile_transfer (P := fun s => Inv s ∧ s.fsm = .expectBit) (fun _ _ h => h) (fun _ _ _ h => h)
    (fun _ h => hf h.1 h.2) rs ⟨h, ((expectsBit_iff s).1 he).1⟩

/-- Every operation keeps the invariant. -/
theorem inv_exec {i : Instr} {s t : State} (hs : Inv s) (h : exec i s = .next t) : Inv t := by
  cases exec_did h with
  | nop | wrtp | pure | protocolWord | rxBit1Ignored | rxBit0Ignored | rxTrail => exact hs
  | rdtp | emitted => exact inv_withProfile (fun h => by exact h) _ hs
  | transmit => exact inv_withProfile (inv_runTransmit _ _ _) _ hs
  | emit => exact inv_withProfile (inv_emitWord _) _ hs
  | decode => exact inv_withProfile inv_runDecode _ hs
  | frame _ word => exact inv_receiveWord word hs
  | rxHeader => exact inv_withProfile (fun h => inv_tryHeader (inv_startDecode h) rfl) _ hs
  | rxBit1 _ he => exact inv_withProfile_expectBit inv_tryOne _ hs he
  | rxBit0 _ he => exact inv_withProfile_expectBit inv_tryZero _ hs he

end Sys2Proof.Machine
end

section
/-! PROOFS of the family 10_state.md: what each register keeps, and the invariant at reset and after every step. -/

namespace Sys2Proof.Machine

/-- Settles O49: the reset state is written out, and none of its free values is looked at. -/
theorem resetMeetsTheInvariant : Obligations.ResetMeetsTheInvariant := inv_reset

/-- Settles O50: a reset and a reception keep the invariant, and so does every operation, by the transitions it is made of. -/
theorem stepKeepsTheInvariant : Obligations.StepKeepsTheInvariant := by
  intro s t hs h
  obtain ⟨-, rfl⟩ | ⟨x, rest, -, ⟨-, rfl⟩ | ⟨buf, -, rfl⟩ | ⟨c, i, -, -, hexec⟩⟩ := step_cases h
  · exact hs
  · exact inv_doReset (s := { s with inputs := rest }) hs
  · exact inv_capture buf (s := { s with inputs := rest }) hs
  · exact inv_exec (s := { s with inputs := rest }) hs hexec

/-- Settles O43: the values are those of `State.reset`; the first register looked at is not written, and its use is refused. -/
theorem resetValues : Obligations.ResetValues := by
  refine ⟨rfl, rfl, rfl, rfl, fun r => ?_, fun r => ?_, fun _ _ _ => rfl, rfl⟩
  · cases r <;> rfl
  · cases r <;> rfl

/-- Settles O55: by what each operation keeps. -/
theorem onlyWrtpWritesTheTimingProfile : Obligations.OnlyWrtpWritesTheTimingProfile :=
  fun _ _ _ h hi => timing_eq_iff.1 (exec_timing h hi)

/-- Settles O54: PROTOCOLWORD loads W alone, and every other operation keeps both registers. -/
theorem onlyTransmitWritesMb : Obligations.OnlyTransmitWritesMb := by
  intro i s t h ht
  by_cases hp : ∃ o f c m, i = .protocolWord o f c m
  · obtain ⟨o, f, c, m, rfl⟩ := hp
    cases h
    exact ⟨rfl, fun hp => absurd rfl (hp o f c m)⟩
  · obtain ⟨hmb, hw⟩ := encoderRegs_eq_iff.1 (exec_encoderRegs h ht fun o f c m hi => hp ⟨o, f, c, m, hi⟩)
    exact ⟨hmb, fun _ => hw⟩

/-- Settles O56: an operation of the Decoder keeps the buffer, and any other keeps the whole Decoder's side. -/
theorem onlyTheDecoderWritesResults : Obligations.OnlyTheDecoderWritesResults := by
  intro i s t h
  cases hd : isDecoders i with
  | true => exact ⟨(exec_decoderKeeps h hd).buf, nofun⟩
  | false =>
    obtain ⟨hres, hnb, hout, hacc, hfsm, hrx⟩ := decoderSide_eq_iff.1 (exec_decoderSide h hd)
    exact ⟨congrArg _ hrx, fun _ => ⟨hres, hnb, hout, hacc, hfsm, hrx, exec_draws h hd⟩⟩

/-- An operation that is no WRTP of `r` keeps the register and its mark. -/
theorem exec_keeps_register {r : TpReg} {i : Instr} {s t : State} (h : exec i s = .next t)
    (hi : ∀ x, i ≠ .wrtp (tpIndex r) x) :
    tpGet t.tp r = tpGet s.tp r ∧ (tpIsWritten s.tpWritten r = true → tpIsWritten t.tpWritten r = true) := by
  by_cases hw : ∃ k x, i = .wrtp k x
  · obtain ⟨k, x, rfl⟩ := hw
    cases exec_did h with
    | wrtp q =>
      have hqr : r ≠ q := fun hqr => hi x (by rw [hqr])
      exact ⟨tpGet_tpSet_other _ _ hqr, fun hs => by simp [hs]⟩
    | pure _ _ _ hi | frame _ _ _ hi | emitted _ _ _ _ hi => cases hi
  · obtain ⟨htp, hmarks⟩ := timing_eq_iff.1 (exec_timing h fun k x hi => hw ⟨k, x, hi⟩)
    exact ⟨by rw [htp], fun hs => by rw [hmarks, hs]⟩

/-- RDTP of a register that was written puts its value on tp_rdata (R171). -/
theorem exec_rdtp_written {r : TpReg} {s : State} (h : tpIsWritten s.tpWritten r = true) :
    exec (.rdtp (tpIndex r)) s = .next (setTpRdata (tpGet s.tp r) s) := by
  have hread : tpUnreadable [r] s = none := tpUnreadable_eq_none.2 (by simp [tpMayRead_written h])
  simp only [exec, execRdtp, tpOfIndex_tpIndex, hread]
  rw [withProfile_written _ (by simp [h])]

/-- Settles O4: the register holds the value after the WRTP, and the operation between keeps it. -/
theorem rdtpReadsBackLastWrtp : Obligations.RdtpReadsBackLastWrtp := by
  intro r v s t u i hwrite hexec hi
  obtain rfl : writeTp r v s = t := by simpa [exec, execWrtp] using hwrite
  obtain ⟨hget, hmark⟩ := exec_keeps_register hexec hi
  rw [exec_rdtp_written (hmark (by simp)), hget, writeTp_tp, tpGet_tpSet_same]
  rfl

/-- What TRANSMIT sends and leaves in MB and W depends on MB, the registers and the parameters alone (R109). -/
theorem runTransmit_congr (mode : Mode) (fan : Fan) (temp : BitVec 16) {s t : State} (hmb : s.mb = t.mb)
    (htp : s.tp = t.tp) (hcfg : s.cfg = t.cfg) :
    encoderRegs (runTransmit mode fan temp s) = encoderRegs (runTransmit mode fan temp t) ∧
      (runTransmit mode fan temp s).tx = (runTransmit mode fan temp t).tx := by
  simp only [runTransmit_eq, encoderRegs, hmb, htp, hcfg, and_self]

/-- A machine with the registers and marks of a ready one is ready. -/
theorem ready_of_timing {s t : State} (h : timing t = timing s) (hs : Ready s) : Ready t := by
  obtain ⟨htp, hmarks⟩ := timing_eq_iff.1 h
  simpa only [Ready, htp, hmarks] using hs

/-- Settles O59: a DECODE keeps MB, the registers and the parameters, on which alone the TRANSMIT depends. -/
theorem receptionCannotReachTheEncoder : Obligations.ReceptionCannotReachTheEncoder := by
  intro mode fan temp s u c bufA bufB hs hu hc
  have hkeepA : DecoderKeeps (capture bufA s) u := exec_decoderKeeps hu rfl
  have hkeepB : DecoderKeeps (capture bufB s) c := exec_decoderKeeps hc rfl
  have hreadyA : Ready u := ready_of_timing hkeepA.timing hs
  have hreadyB : Ready c := ready_of_timing hkeepB.timing hs
  obtain ⟨hregs, htx⟩ := runTransmit_congr mode fan temp (hkeepA.mb.trans hkeepB.mb.symm)
    (hkeepA.tp.trans hkeepB.tp.symm) (hkeepA.cfg.trans hkeepB.cfg.symm)
  obtain ⟨hmb, hw⟩ := encoderRegs_eq_iff.1 hregs
  exact ⟨_, _, withTp_ready hreadyA, withTp_ready hreadyB, hmb, hw, htx⟩

end Sys2Proof.Machine
end

section
/-! PROOFS of the family 10_state.md: what a DECODE of a whole buffer leaves, and EMIT, TRANSMIT and DECODE on registers written or
not (R31, R107, R109, R130). -/

namespace Sys2Proof.Machine

/-! ### A DECODE of a whole buffer (R130, R145) -/

/-- The first pair does not match the header: HeaderMismatch, and nothing more is tried (R132, R181). -/
theorem runDecode_headerMismatch {s : State}
    (h : rxAnswer s.cfg.tolerance s.tp.hm s.tp.hs { s.rx with cur := 0 } = false) :
    runDecode s = raise .headerMismatch (rxAfter s.tp.hm s.tp.hs false (startDecode s)) := by
  have hheader : tryHeader (startDecode s) = raise .headerMismatch (rxAfter s.tp.hm s.tp.hs false (startDecode s)) := by
    rw [tryHeader_eq]; simp [h]
  rw [runDecode, hheader, bitLoop_idle _ (by simp), finishIfComplete, if_neg (by simp)]

/-- A DECODE after its header: the first pair is consumed, and the bits are read from the second on (R133). -/
def afterHeader (s : State) : State := headerMatched (rxAfter s.tp.hm s.tp.hs true (startDecode s))

theorem runDecode_headerMatched {s : State}
    (h : rxAnswer s.cfg.tolerance s.tp.hm s.tp.hs { s.rx with cur := 0 } = true) :
    runDecode s = finishIfComplete (bitLoop 43 (afterHeader s)) := by
  have hheader : tryHeader (startDecode s) = afterHeader s := by
    rw [tryHeader_eq]; simp [h, afterHeader]
  rw [runDecode, hheader]

/-- The bit loop of a DECODE reads the pairs after the first (R133 to R136). -/
theorem bitLoop_afterHeader {s : State} {q : Pulse} {qs : List Pulse} (hbuf : s.rx.buf = q :: qs) :
    BitLoopEnds (afterHeader s) (bitLoop 43 (afterHeader s)) 43 (readBits s.cfg.tolerance s.tp 43 qs) := by
  have hreads := bitLoop_reads 43 (afterHeader s) rfl rfl
  simpa [afterHeader, hbuf] using hreads

/-- A header and fewer than 43 bits: the bit loop's last state, TruncatedFrame (R182). -/
theorem runDecode_truncated {s : State} {q : Pulse} {qs : List Pulse} (hbuf : s.rx.buf = q :: qs)
    (hq : pulseMatches s.cfg.tolerance s.tp.hm s.tp.hs q = true)
    (hbits : (readBits s.cfg.tolerance s.tp 43 qs).length < 43) :
    runDecode s = bitLoop 43 (afterHeader s) := by
  have hfsm := ((bitLoop_afterHeader hbuf).truncated hbits).1
  rw [runDecode_headerMatched (by rw [rxAnswer_cons (by simpa using hbuf), hq]), finishIfComplete, if_neg (by simp [hfsm])]

/-- A header and 43 bits: Frame-Complete on the word of the bits (R136). -/
theorem runDecode_complete {s : State} {q : Pulse} {qs : List Pulse} (hbuf : s.rx.buf = q :: qs)
    (hq : pulseMatches s.cfg.tolerance s.tp.hm s.tp.hs q = true)
    (hbits : (readBits s.cfg.tolerance s.tp 43 qs).length = 43) :
    runDecode s = finishFrame (bitLoop 43 (afterHeader s)) ∧ (bitLoop 43 (afterHeader s)).nb = 43 ∧
      (bitLoop 43 (afterHeader s)).acc = wordOfBits (readBits s.cfg.tolerance s.tp 43 qs) := by
  have hloop := bitLoop_afterHeader hbuf
  obtain ⟨hfsm, -⟩ := hloop.complete hbits
  refine ⟨?_, ?_, ?_⟩
  · rw [runDecode_headerMatched (by rw [rxAnswer_cons (by simpa using hbuf), hq]), finishIfComplete, if_pos hfsm]
  · exact BitVec.eq_of_toNat_eq (by rw [hloop.nb, hbits]; rfl)
  · rw [hloop.acc, shiftBits_complete _ _ hbits]

/-- What RES, NB, FSM and OUT say of the contract's answer (R180). -/
def Reports (t : State) : Except FrameError Out → Prop
  | .ok o => t.res = .ok ∧ t.nb = 43 ∧ t.fsm = .done ∧ t.out = o
  | .error .headerMismatch => t.res = .headerMismatch ∧ t.nb = 0 ∧ t.fsm = .failed
  | .error (.truncated n) => t.res = .truncatedFrame ∧ t.nb.toNat = n ∧ n ≤ 42 ∧ t.fsm = .failed
  | .error .signatureMismatch => t.res = .signatureMismatch ∧ t.nb = 43 ∧ t.fsm = .failed

/-- DECODE's state machine reports the contract's answer for the whole buffer (R130). -/
theorem runDecode_reports (s : State) :
    Reports (runDecode s) (decodeContract s.cfg.tolerance s.tp s.rx.buf) := by
  unfold decodeContract
  split
  next hbuf =>
    rw [runDecode_headerMismatch (rxAnswer_nil (by simp [hbuf]))]
    exact ⟨rfl, rfl, rfl⟩
  next q qs hbuf =>
    split
    next hq =>
      rw [runDecode_headerMismatch (by rw [rxAnswer_cons (by simpa using hbuf), hq])]
      exact ⟨rfl, rfl, rfl⟩
    next hq =>
      replace hq : pulseMatches s.cfg.tolerance s.tp.hm s.tp.hs q = true := by simpa using hq
      have hloop := bitLoop_afterHeader hbuf
      simp only
      split
      next hbits =>
        obtain ⟨hfsm, hres⟩ := hloop.truncated hbits
        rw [runDecode_truncated hbuf hq hbits]
        exact ⟨hres, hloop.nb.trans (Nat.zero_add _), Nat.le_of_lt_succ hbits, hfsm⟩
      next hbits =>
        obtain ⟨hrun, hnb, hacc⟩ := runDecode_complete hbuf hq (le_antisymm (readBits_length_le ..) (not_lt.1 hbits))
        rw [hrun, finishFrame_eq, hacc]
        split
        · exact ⟨rfl, hnb, rfl, rfl⟩
        · exact ⟨rfl, hnb, rfl⟩

/-! ### EMIT, TRANSMIT and DECODE on registers written or not -/

/-- EMIT's calls in the trace: the header pair, the bit pairs, bit 0 first, and the trailing mark (R107). -/
theorem emitCalls_events (p : TimingProfile) (word : ProtocolWord) :
    (emitCalls p word).map Event.tx = [.tx (.pulse p.hm p.hs)] ++
      (List.range 43).map (fun i => .tx (.pulse p.bm (if word.getLsbD i then p.os else p.zs))) ++ [.tx (.mark p.bm)] := by
  simp [emitCalls, framePulses, wordBits, headerPulse, bitPulse, pulseCall, Function.comp_def]

/-- What a DECODE leaves, as one state. -/
theorem DecoderKeeps.eq {s t : State} (h : DecoderKeeps s t) : t = { s with
    acc := t.acc, nb := t.nb, fsm := t.fsm, res := t.res, out := t.out
    rx := { s.rx with cur := t.rx.cur }, events := t.events, draws := t.draws } := by
  obtain ⟨hmb, htp, hw, hidx, hrdata, hbuf, htx, hcfg, hmarks, hinputs, hret, -⟩ := h
  simp only [← hmb, ← htp, ← hw, ← hidx, ← hrdata, ← hbuf, ← htx, ← hcfg, ← hmarks, ← hinputs, ← hret]

/-- Settles O47: the profile is the one the operations read; each does on it what it does on the registers. -/
theorem unwrittenRegistersReadFreely : Obligations.UnwrittenRegistersReadFreely := by
  intro s hs
  refine ⟨tpProfile s, readsAs_tpProfile s, fun r => ?_, fun word => ?_, fun mode fan temp => ?_, ?_⟩
  · rw [tpGet_tpProfile]; exact (hs r (mem_allTp r)).2
  · obtain ⟨d, heq⟩ := withProfile_allTp (f := emitWord word) (fun s => by rw [emitWord_eq]) s
    refine ⟨_, withTp_usable hs, ?_⟩
    rw [heq, emitWord_eq, emitCalls_events]
    exact ⟨by simp only [List.append_assoc], rfl⟩
  · obtain ⟨d, heq⟩ := withProfile_allTp (f := runTransmit mode fan temp) (fun s => by rw [runTransmit_eq]) s
    refine ⟨_, withTp_usable hs, ?_⟩
    rw [heq, runTransmit_eq, emitCalls_events]
    exact ⟨rfl, by simp only [List.append_assoc, List.cons_append, List.nil_append], rfl⟩
  · obtain ⟨d, heq⟩ := withProfile_allTp (f := runDecode) (fun s => (runDecode_keeps s).tp) s
    have hreports : Reports (withProfile allTp runDecode s) (decodeContract s.cfg.tolerance (tpProfile s) s.rx.buf) := by
      rw [heq]; exact runDecode_reports { s with tp := tpProfile s }
    exact ⟨_, withTp_usable hs, hreports, (DecoderKeeps.withProfile runDecode_keeps allTp s).eq⟩

end Sys2Proof.Machine
end

section
/-! PROOFS of the family 20_memory.md: what a step takes from the host (R10, R54), a DECODE runs from start to end (R145), and the
calls of a TRANSMIT (R45). -/

namespace Sys2Proof.Machine

/-! ### The host's future (R10, R54) -/

@[simp] theorem emitWord_inputs (word : ProtocolWord) (s : State) : (emitWord word s).inputs = s.inputs := by
  rw [emitWord_eq]

@[simp] theorem runTransmit_inputs (mode : Mode) (fan : Fan) (temp : BitVec 16) (s : State) :
    (runTransmit mode fan temp s).inputs = s.inputs := by
  rw [runTransmit_eq]

/-- No operation takes anything from the host's future or adds to it: only the step that issues it does. -/
theorem exec_inputs {i : Instr} {s t : State} (h : exec i s = .next t) : t.inputs = s.inputs := by
  have part {f : State → State} (hf : ∀ s, (f s).inputs = s.inputs) (rs : List TpReg) (s : State) :=
    withProfile_part State.inputs (fun _ _ _ => rfl) hf rs s
  cases exec_did h with
  | nop | wrtp | pure | protocolWord | rxBit1Ignored | rxBit0Ignored | rxTrail => rfl
  | rdtp => exact part (fun _ => setTpRdata_inputs ..) ..
  | transmit => exact part (runTransmit_inputs _ _ _) ..
  | emit => exact part (emitWord_inputs _) ..
  | emitted => exact part (fun _ => txCall_inputs ..) ..
  | decode | rxHeader | rxBit1 | rxBit0 => exact (exec_decoderKeeps h rfl).inputs
  | frame _ _ _ hf => exact (exec_decoderKeeps h (isDecoders_of_isFrame hf)).inputs

/-- Settles O52: a step fetches the head, and a reset, a reception and every operation leave the rest. -/
theorem stepTakesOneInput : Obligations.StepTakesOneInput := by
  intro s t h
  obtain ⟨hnil, rfl⟩ | ⟨x, rest, hcons, hdone⟩ := step_cases h
  · rw [hnil, List.tail_nil]
  · rw [hcons, List.tail_cons]
    obtain ⟨-, rfl⟩ | ⟨buf, -, rfl⟩ | ⟨c, i, -, -, hexec⟩ := hdone
    · exact doReset_inputs _
    · exact capture_inputs _ buf
    · exact (exec_inputs hexec :)

/-- What the host may do it may still do one step later. -/
theorem hostKeepsInterface_step {s t : State} (hs : HostKeepsInterface s) (h : step s = .next t) :
    HostKeepsInterface t := by
  have htail := stepTakesOneInput s t h
  exact List.all_eq_true.2 fun x hx => List.all_eq_true.1 hs x (List.mem_of_mem_tail (htail ▸ hx))

/-! ### A DECODE runs from start to end (R145) -/

/-- Whatever the contract answers, the state machine that reports it has come to its end. -/
theorem Reports.ended {t : State} {answer : Except FrameError Out} (h : Reports t answer) :
    t.fsm = .done ∨ t.fsm = .failed := by
  match answer, h with
  | .ok _, ⟨_, _, hfsm, _⟩ => exact .inl hfsm
  | .error .headerMismatch, ⟨_, _, hfsm⟩ => exact .inr hfsm
  | .error (.truncated _), ⟨_, _, _, hfsm⟩ => exact .inr hfsm
  | .error .signatureMismatch, ⟨_, _, hfsm⟩ => exact .inr hfsm

/-- Every DECODE that completes ends in Done or Failed, on registers written or not. -/
theorem exec_decode_ended {s t : State} (h : exec .decode s = .next t) : t.fsm = .done ∨ t.fsm = .failed := by
  obtain ⟨-, rfl⟩ := withTp_next h
  exact withProfile_transfer (P := fun _ => True) (Q := fun t => t.fsm = .done ∨ t.fsm = .failed)
    (fun _ _ h => h) (fun _ _ _ h => h) (fun s _ => (runDecode_reports s).ended) allTp trivial

/-- DECODE is the Decoder's one command (R78). -/
theorem decodeCommand_eq_decode_of_isDecoders {p : Ports} (h : isDecoders (decodeCommand p) = true) :
    decodeCommand p = .decode := by
  revert h
  unfold decodeCommand
  split <;> simp [isDecoders]

/-- A command leaves no DECODE open: DECODE ends, and the others leave FSM. -/
theorem noDecodeOpen_exec_command {p : Ports} {s t : State} (hs : NoDecodeOpen s)
    (h : exec (decodeCommand p) s = .next t) : NoDecodeOpen t := by
  cases hd : isDecoders (decodeCommand p) with
  | true =>
    rw [decodeCommand_eq_decode_of_isDecoders hd] at h
    exact .inr (exec_decode_ended h)
  | false =>
    obtain ⟨-, -, -, -, hfsm, -⟩ := decoderSide_eq_iff.1 (exec_decoderSide h hd)
    rwa [NoDecodeOpen, hfsm]

/-- Of the operations the host may issue commands only (R78). -/
theorem command_of_hostMayIssue {c : Code} (h : hostMayIssue (.issue c) = true) : ∃ p, c = .command p := by
  cases c with
  | command p => exact ⟨p, rfl⟩
  | frame | encoderWord | subop | symbol => cases h

/-- Settles O51: a reset closes the Decoder, a reception leaves FSM, and what the host issues is a command. -/
theorem noStepLeavesADecodeOpen : Obligations.NoStepLeavesADecodeOpen := by
  intro s t hhost hopen h
  refine ⟨hostKeepsInterface_step hhost h, ?_⟩
  obtain ⟨-, rfl⟩ | ⟨x, rest, hcons, ⟨-, rfl⟩ | ⟨buf, -, rfl⟩ | ⟨c, i, rfl, hdecode, hexec⟩⟩ := step_cases h
  · exact hopen
  · exact .inl rfl
  · exact hopen
  · have hmay : hostMayIssue (.issue c) = true := List.all_eq_true.1 hhost _ (by simp [hcons])
    obtain ⟨p, rfl⟩ := command_of_hostMayIssue hmay
    cases hdecode
    exact noDecodeOpen_exec_command (s := { s with inputs := rest }) hopen hexec

/-! ### The calls of a TRANSMIT (R45) -/

@[simp] theorem framePulses_length (p : TimingProfile) (word : ProtocolWord) : (framePulses p word).length = 44 := by
  simp [framePulses]

/-- A pair is one mark and one space. -/
theorem flatMap_pulseSegments_length (ps : List Pulse) : (ps.flatMap pulseSegments).length = 2 * ps.length := by
  simp [List.length_flatMap, pulseSegments, Nat.mul_comm]

/-- Settles O16: the pairs are those of the word's frame, the header and the 43 bits. -/
theorem transmittedFrameShape : Obligations.TransmittedFrameShape := by
  intro mode fan temp s hs
  refine ⟨_, framePulses s.tp (encodeState s.cfg.tie mode fan temp s.mb).1, _, withTp_ready hs,
    framePulses_length .., rfl, ?_, ?_, ?_, ?_⟩
  · simp
  · rw [runTransmit_eq]
    simp [emitCalls, pulseCall]
  · rw [runTransmit_eq]
    rfl
  · rw [runTransmit_eq]
    simp only [List.length_append, flatMap_pulseSegments_length, framePulses_length, List.length_singleton]

end Sys2Proof.Machine
end

section
/-! PROOFS of the family 30_encoding.md: the decoder and the encoder undo each other, and the reserved command codes
(R60, R69, R71, R78 to R81). -/

namespace Sys2Proof.Machine

/-! ### The decoder on what the encoder writes -/

@[simp] theorem modeOfPort_portOfMode (mode : Mode) : modeOfPort (portOfMode mode) = mode := by cases mode <;> rfl

@[simp] theorem fanOfPort_portOfFan (fan : Fan) : fanOfPort (portOfFan fan) = fan := by cases fan <;> rfl

/-- The FRAME_ON class of a mode code (R71). -/
def onFrame (z : BitVec 16) (toff fan : BitVec 4) (mode : ModeCode) : Instr :=
  match mode.toNat with
  | 0 => .frameOnAuto z toff fan
  | 1 => .frameOnCool z toff fan
  | 2 => .frameOnDry z toff fan
  | 3 => .frameOnFan z toff fan
  | 4 => .frameOnHeat z toff fan
  | 5 => .frameOnRsv5 z toff fan
  | 6 => .frameOnRsv6 z toff fan
  | _ => .frameOnRsv7 z toff fan

/-- A word without the signature is foreign. -/
theorem decodeFrame_foreign {word : ProtocolWord} (h : sigOf word ≠ Config.sigField) :
    decodeFrame word = .frameForeign (sigOf word) (word.extractLsb' 0 28) := by
  rw [decodeFrame, if_pos h]

/-- A word with the signature and flag 0 is of FRAME_OFF. -/
theorem decodeFrame_off {word : ProtocolWord} (hsig : sigOf word = Config.sigField) (hflag : flagOf word = 0) :
    decodeFrame word = .frameOff (uncheckedOf word) (toffOf word) (fanCodeOf word) (modeCodeOf word) := by
  rw [decodeFrame, if_neg (not_not.2 hsig), if_pos hflag]

/-- A word with the signature and flag 1 is of the FRAME_ON class of its mode code. -/
theorem decodeFrame_on {word : ProtocolWord} (hsig : sigOf word = Config.sigField) (hflag : flagOf word = 1) :
    decodeFrame word = onFrame (uncheckedOf word) (toffOf word) (fanCodeOf word) (modeCodeOf word) := by
  rw [decodeFrame, if_neg (not_not.2 hsig), if_neg (by rw [hflag]; decide)]
  rfl

theorem decode_codeOfFrame_on (z : BitVec 16) (toff fan : BitVec 4) (mode : ModeCode) :
    decode (codeOfFrame z toff fan 1 mode) = .ok (onFrame z toff fan mode) := by
  rw [codeOfFrame, decode, decodeFrame_on] <;> simp

theorem decode_codeOfFrame_off (z : BitVec 16) (toff fan : BitVec 4) (mode : ModeCode) :
    decode (codeOfFrame z toff fan 0 mode) = .ok (.frameOff z toff fan mode) := by
  rw [codeOfFrame, decode, decodeFrame_off] <;> simp

theorem decode_foreign {sig : BitVec 15} (low : BitVec 28) (h : sig ≠ Config.sigField) :
    decode (.frame (sig ++ low)) = .ok (.frameForeign sig low) := by
  rw [decode, decodeFrame_foreign (by rwa [sigOf_append]), sigOf_append, extractLow_append]

theorem decodeEncoderWord_wordOfFields (toff fan : BitVec 4) (flag : BitVec 1) (mode : ModeCode) :
    decodeEncoderWord (wordOfFields Config.sigField 0 toff fan flag mode) = .ok (.protocolWord toff fan flag mode) := by
  simp [decodeEncoderWord]

/-- Settles O38: a case per instruction. Commands, sub-operations and symbols are read as they are written; a word of the Encoder
and a word of a frame by the fields of the word. -/
theorem decodeEncodeAgree : Obligations.DecodeEncodeAgree := by
  intro i hwf
  cases i with
  | nop | wrtp | rdtp | decode | reservedCmd5 | reservedCmd6 | reservedCmd7 => rfl
  | encode | emit | validate | unpack | symHeader | symBit1 | symBit0 | symTrail => rfl
  | transmit mode fan temp =>
    change Except.ok (Instr.transmit (modeOfPort (portOfMode mode)) (fanOfPort (portOfFan fan)) temp) = _
    rw [modeOfPort_portOfMode, fanOfPort_portOfFan]
  | protocolWord toff fan flag mode => exact decodeEncoderWord_wordOfFields toff fan flag mode
  | frameOnAuto | frameOnCool | frameOnDry | frameOnFan | frameOnHeat | frameOnRsv5 | frameOnRsv6 | frameOnRsv7 =>
    exact decode_codeOfFrame_on ..
  | frameOff => exact decode_codeOfFrame_off ..
  | frameForeign sig low => exact decode_foreign low (of_decide_eq_true hwf)

/-! ### The frame class of a word -/

theorem flag_eq_zero_or_one (flag : BitVec 1) : flag = 0 ∨ flag = 1 := by
  revert flag; decide

theorem mode_code_cases (mode : ModeCode) :
    mode = 0 ∨ mode = 1 ∨ mode = 2 ∨ mode = 3 ∨ mode = 4 ∨ mode = 5 ∨ mode = 6 ∨ mode = 7 := by
  revert mode; decide

/-- The FRAME_ON class of a mode code is well-formed and written with flag 1 and that code. -/
theorem onFrame_written (z : BitVec 16) (toff fan : BitVec 4) (mode : ModeCode) :
    (onFrame z toff fan mode).wf = true ∧ encode (onFrame z toff fan mode) = codeOfFrame z toff fan 1 mode := by
  obtain rfl | rfl | rfl | rfl | rfl | rfl | rfl | rfl := mode_code_cases mode <;> exact ⟨rfl, rfl⟩

/-- A word with the signature is written as the frame of its fields. -/
theorem codeOfFrame_of_word {word : ProtocolWord} (h : sigOf word = Config.sigField) :
    codeOfFrame (uncheckedOf word) (toffOf word) (fanCodeOf word) (flagOf word) (modeCodeOf word) = .frame word := by
  rw [codeOfFrame, ← h, wordOfFields_of_word]

/-- The frame class of a word is well-formed and is written as that word. -/
theorem decodeFrame_written (word : ProtocolWord) :
    (decodeFrame word).wf = true ∧ encode (decodeFrame word) = .frame word := by
  by_cases hsig : sigOf word = Config.sigField
  · rw [← codeOfFrame_of_word hsig]
    obtain hflag | hflag := flag_eq_zero_or_one (flagOf word)
    · rw [decodeFrame_off hsig hflag, hflag]
      exact ⟨rfl, rfl⟩
    · rw [decodeFrame_on hsig hflag, hflag]
      exact onFrame_written ..
  · rw [decodeFrame_foreign hsig]
    exact ⟨decide_eq_true hsig, congrArg Code.frame (sig_append_low word)⟩

/-- Settles O39: what is written as a word decodes to that word's frame class, so by O38 it is that class. -/
theorem everyWordHasOneFrameClass : Obligations.EveryWordHasOneFrameClass := by
  intro word
  obtain ⟨hwf, hcode⟩ := decodeFrame_written word
  refine ⟨hwf, hcode, fun i hi hword => ?_⟩
  have hdecode : Except.ok (decodeFrame word) = Except.ok (ε := DecodeReject) i := by
    rw [← decodeEncodeAgree i hi, hword, decode]
  exact (Except.ok.inj hdecode).symm

/-- Settles O40: each code is closed, and the decoder is run on it. -/
theorem writtenOutWordsDecode : Obligations.WrittenOutWordsDecode := by
  unfold Obligations.WrittenOutWordsDecode
  decide

/-! ### The reserved command codes (R79) -/

theorem cmd_gt_four_cases {cmd : BitVec 3} (h : 4 < cmd.toNat) : cmd = 5 ∨ cmd = 6 ∨ cmd = 7 := by
  revert cmd; decide

/-- A command with a reserved code decodes to an instruction that is refused by that code. -/
theorem exec_decodeCommand_reserved {p : Ports} (h : 4 < p.cmd.toNat) (s : State) :
    exec (decodeCommand p) s = .refused (.reservedCommand p.cmd) := by
  obtain hcmd | hcmd | hcmd := cmd_gt_four_cases h <;> rw [decodeCommand, hcmd] <;> rfl

/-- Settles O5: the three instructions are refused, and a step runs the one its command port decodes to. -/
theorem reservedCommandsRefused : Obligations.ReservedCommandsRefused :=
  ⟨fun _ => ⟨rfl, rfl, rfl⟩, fun s p h =>
    (stepRunsTheDecodedInstruction (.command p) (decodeCommand p) s rfl).trans (exec_decodeCommand_reserved h s)⟩

end Sys2Proof.Machine
end

section
/-! PROOFS of the family 30_encoding.md: the words the Encoder writes (R60, R68, R74, R76). -/

namespace Sys2Proof.Machine

/-! ### The temperature field -/

/-- Rounding keeps whole bounds. -/
theorem roundTo_bounds (tie : RoundTie) {v lo hi : Int} (hlo : lo * 256 ≤ v) (hhi : v ≤ hi * 256) :
    lo ≤ roundTo tie v ∧ roundTo tie v ≤ hi := by
  cases tie with
  | halfUp => simp only [roundTo]; omega
  | halfEven =>
    simp only [roundTo]
    split_ifs <;> omega

theorem clampInt_bounds (v : Int) {lo hi : Int} (h : lo ≤ hi) : lo ≤ clampInt v lo hi ∧ clampInt v lo hi ≤ hi := by
  unfold clampInt
  split_ifs <;> omega

theorem clampInt_of_mem {v lo hi : Int} (hlo : lo ≤ v) (hhi : v ≤ hi) : clampInt v lo hi = v := by
  rw [clampInt, if_neg (not_lt.2 hlo), if_neg (not_lt.2 hhi)]

/-- The offset of a temperature is at most 14: the temperature is clamped to 16..30 and then rounded (R104). -/
theorem tempOffset_le (tie : RoundTie) (temp : BitVec 16) : (tempOffset tie temp).toNat ≤ 14 := by
  obtain ⟨hlo, hhi⟩ := clampInt_bounds (tempRaw temp) (lo := Config.tempMin * 256) (hi := Config.tempMax * 256) (by decide)
  obtain ⟨hmin, hmax⟩ := roundTo_bounds tie hlo hhi
  simp only [Config.tempMin, Config.tempMax] at hmin hmax
  rw [tempOffset, BitVec.toNat_ofInt]
  simp only [tempClamped, Config.tempMin, Config.tempMax]
  omega

/-- The temperature of an offset, a whole number of degrees. -/
def wholeTemp (toff : BitVec 4) : BitVec 16 := BitVec.ofInt 16 ((toff.toNat + 16) * 256)

/-- The offset of a whole temperature in range is the one it was made from, whatever the tie rule. -/
theorem tempOffset_wholeTemp (tie : RoundTie) {toff : BitVec 4} (h : toff.toNat ≤ 14) :
    tempOffset tie (wholeTemp toff) = toff := by
  have hraw : tempRaw (wholeTemp toff) = (toff.toNat + 16) * 256 := by
    rw [tempRaw, wholeTemp, BitVec.toInt_ofInt, Int.bmod_eq_of_le] <;> omega
  have hclamped : tempClamped (wholeTemp toff) = (toff.toNat + 16) * 256 := by
    rw [tempClamped, hraw, clampInt_of_mem] <;> simp only [Config.tempMin, Config.tempMax] <;> omega
  have hround : roundTo tie ((toff.toNat + 16) * 256) = toff.toNat + 16 :=
    le_antisymm (roundTo_bounds tie le_rfl le_rfl).2 (roundTo_bounds tie le_rfl le_rfl).1
  rw [tempOffset, hclamped, hround, Config.tempMin, Int.add_sub_cancel, BitVec.ofInt_natCast, BitVec.ofNat_toNat,
    BitVec.setWidth_eq]

/-! ### The words ENCODE returns -/

/-- ENCODE returns the word and the new mode-before code of `encodeState`, and nothing else. -/
theorem exec_encode_iff {mode : Mode} {fan : Fan} {temp : BitVec 16} {mb newmb : ModeCode} {word : ProtocolWord}
    {s : State} :
    exec (.encode mode fan temp mb) s = .next { s with ret := .encode word newmb } ↔
      encodeState s.cfg.tie mode fan temp mb = (word, newmb) := by
  change Host.Outcome.next (setRet (.encode _ _) s) = .next (setRet (.encode word newmb) s) ↔ _
  constructor
  · intro h
    have hret := congrArg State.ret (Host.Outcome.next.inj h)
    simpa [Prod.ext_iff] using hret
  · intro h
    rw [h]

/-- The word of ENCODE by its fields. -/
theorem encodeState_fst (tie : RoundTie) (mode : Mode) (fan : Fan) (temp : BitVec 16) (mb : ModeCode) :
    (encodeState tie mode fan temp mb).1 = wordOfFields Config.sigField 0 (tempOffset tie temp) (fanMap fan)
      (modeMap mode mb).1 (modeMap mode mb).2 :=
  assembleWord_eq ..

/-- The fan codes FanMap writes (R105). -/
theorem fanMap_range {code : BitVec 4} :
    (∃ fan, fanMap fan = code) ↔ code = 1 ∨ code = 2 ∨ code = 3 ∨ code = 4 ∨ code = 8 := by
  constructor
  · rintro ⟨fan, rfl⟩
    cases fan <;> decide
  · rintro (rfl | rfl | rfl | rfl | rfl)
    · exact ⟨.low, rfl⟩
    · exact ⟨.medium, rfl⟩
    · exact ⟨.middle, rfl⟩
    · exact ⟨.high, rfl⟩
    · exact ⟨.auto, rfl⟩

/-- The flags and mode codes ModeMap writes: with flag 1 a mapped code, with flag 0 any (R102, R103). -/
theorem modeMap_range {flag : BitVec 1} {code : ModeCode} :
    (∃ mode mb, modeMap mode mb = (flag, code)) ↔ (flag = 1 → code.toNat ≤ 4) := by
  constructor
  · rintro ⟨mode, mb, h⟩ rfl
    cases mode with
    | off | unrecognized6 | unrecognized7 => simp [modeMap] at h
    | cool | heat | auto | dry | fanOnly => cases h; decide
  · intro h
    obtain rfl | rfl := flag_eq_zero_or_one flag
    · exact ⟨.off, code, rfl⟩
    · obtain rfl | rfl | rfl | rfl | rfl | rfl | rfl | rfl := mode_code_cases code
      · exact ⟨.auto, 0, rfl⟩
      · exact ⟨.cool, 0, rfl⟩
      · exact ⟨.dry, 0, rfl⟩
      · exact ⟨.fanOnly, 0, rfl⟩
      · exact ⟨.heat, 0, rfl⟩
      all_goals exact absurd (h rfl) (by decide)

theorem encoderCanProduce_encodeState (tie : RoundTie) (mode : Mode) (fan : Fan) (temp : BitVec 16) (mb : ModeCode) :
    EncoderCanProduce (encodeState tie mode fan temp mb).1 := by
  rw [encodeState_fst]
  refine ⟨sigOf_wordOfFields .., uncheckedOf_wordOfFields .., ?_, ?_, ?_⟩
  · rw [toffOf_wordOfFields]; exact tempOffset_le tie temp
  · rw [fanCodeOf_wordOfFields]; exact fanMap_range.1 ⟨fan, rfl⟩
  · rw [flagOf_wordOfFields, modeCodeOf_wordOfFields]; exact modeMap_range.1 ⟨mode, mb, rfl⟩

/-- A word of the rule's ranges is written for its whole temperature, its fan speed and its mode. -/
theorem exists_encodeState (tie : RoundTie) {word : ProtocolWord} (h : EncoderCanProduce word) :
    ∃ mode fan temp mb, (encodeState tie mode fan temp mb).1 = word := by
  obtain ⟨hsig, hz, htoff, hfan, hmode⟩ := h
  obtain ⟨fan, hfan⟩ := fanMap_range.2 hfan
  obtain ⟨mode, mb, hmode⟩ := modeMap_range.2 hmode
  refine ⟨mode, fan, wholeTemp (toffOf word), mb, ?_⟩
  rw [encodeState_fst, tempOffset_wholeTemp tie htoff, hfan, hmode, ← hsig, ← hz, wordOfFields_of_word]

/-- Settles O8: the fields of an ENCODE result are in range, and a word in range is the result of one. -/
theorem encoderProducesExactlyTheseWords : Obligations.EncoderProducesExactlyTheseWords := by
  intro word s
  simp only [exec_encode_iff]
  constructor
  · rintro ⟨mode, fan, temp, mb, newmb, h⟩
    have hword := encoderCanProduce_encodeState s.cfg.tie mode fan temp mb
    rwa [h] at hword
  · intro h
    obtain ⟨mode, fan, temp, mb, rfl⟩ := exists_encodeState s.cfg.tie h
    exact ⟨mode, fan, temp, mb, _, rfl⟩

/-- Settles O9: the OR is the definition of the assembly; the sum is the value of a word by its fields. -/
theorem protocolWordIsAssembled : Obligations.ProtocolWordIsAssembled := by
  intro toff fan flag mode s
  refine ⟨_, rfl, rfl, rfl, ?_⟩
  change (assembleWord toff fan flag mode).toNat = _
  rw [assembleWord_eq, wordOfFields_toNat]
  simp [Config.sigField]

end Sys2Proof.Machine
end

section
/-! PROOFS of the family 30_encoding.md: what a frame word does as the last stage of a DECODE (R71 to R75). -/

namespace Sys2Proof.Machine

/-! ### Frame-Complete on a word -/

/-- A word with the signature ends Ok with its unpacked state, published (R143). -/
theorem receiveWord_valid {word : ProtocolWord} (h : sigOf word = Config.sigField) (s : State) :
    receiveWord word s = succeed (unpackWord word) (completeFrame word s) := by
  have hvalid : validateWord (completeFrame word s).acc = true := (validateWord_iff word).2 h
  rw [receiveWord, finishFrame_eq, if_pos hvalid, completeFrame_acc]

/-- A word without it ends with SignatureMismatch (R144). -/
theorem receiveWord_foreign {word : ProtocolWord} (h : sigOf word ≠ Config.sigField) (s : State) :
    receiveWord word s = raise .signatureMismatch (completeFrame word s) := by
  have hinvalid : ¬validateWord (completeFrame word s).acc = true := fun hv => h ((validateWord_iff word).1 hv)
  rw [receiveWord, finishFrame_eq, if_neg hinvalid]

/-- A frame class is run as Frame-Complete on the word it is written as. -/
theorem exec_of_encode_frame {i : Instr} {word : ProtocolWord} (h : encode i = .frame word) (s : State) :
    exec i s = .next (receiveWord word s) := by
  cases i with
  | frameOnAuto | frameOnCool | frameOnDry | frameOnFan | frameOnHeat | frameOnRsv5 | frameOnRsv6 | frameOnRsv7
  | frameOff | frameForeign => cases h; rfl
  | _ => cases h

/-- The frame class the decoder reads from a word is run as Frame-Complete on that word. -/
theorem exec_decodeFrame (word : ProtocolWord) (s : State) :
    exec (decodeFrame word) s = .next (receiveWord word s) :=
  exec_of_encode_frame (decodeFrame_written word).2 s

/-! ### The classes with the signature -/

/-- A frame with the signature leaves its word, Ok, 43 bits and its fields decoded, and publishes the decoded state. -/
theorem receiveFields_eq (z : BitVec 16) (toff fan : BitVec 4) (flag : BitVec 1) (mode : ModeCode) (s : State) :
    receiveFields z toff fan flag mode s =
      succeed { mode := portOfMode (modeOf flag mode), fan := portOfFan (fanOf fan), temp := tempOf toff, swing := 0 }
        (completeFrame (wordOfFields Config.sigField z toff fan flag mode) s) := by
  rw [receiveFields, receiveWord_valid (sigOf_wordOfFields ..), unpackWord_wordOfFields]

/-- The decoded temperature is the offset and 16, with no overflow (R75). -/
theorem tempOf_toNat (toff : BitVec 4) : (tempOf toff).toNat = toff.toNat + 16 := by
  revert toff; decide

/-- An instruction is the frame class of a flag and a mode code, beside the mode it decodes to and its word where `z`, the
offset and the fan code are 0 (R71). -/
def IsFrameClass (z : BitVec 16) (toff fan : BitVec 4) (s : State) (p : Instr × Mode × Nat) : Prop :=
  ∃ flag code, exec p.1 s = .next (receiveFields z toff fan flag code s) ∧ modeOf flag code = p.2.1 ∧
    0x25150000000 + 8 * flag.toNat + code.toNat = p.2.2

/-- Settles O28: each class is Frame-Complete on the word of its flag and mode code, and the fields of that word are decoded. -/
theorem validFramesDecode : Obligations.ValidFramesDecode := by
  intro z toff fan mode s
  suffices hclass : ∀ p ∈ _, IsFrameClass z toff fan s p by
    intro p hp
    obtain ⟨flag, code, hexec, hmode, hword⟩ := hclass p hp
    refine ⟨_, hexec, ?_⟩
    rw [receiveFields_eq, ← hmode, ← hword]
    refine ⟨rfl, rfl, rfl, ?_, rfl, ?_, tempOf_toNat toff, rfl, rfl⟩
    · have hsig : Config.sigField.toNat = 0x2515 := rfl
      rw [succeed_acc, completeFrame_acc, wordOfFields_toNat, hsig]
      omega
    · rw [succeed_out, fanOf]
      generalize fan.toNat = n
      match n with
      | 0 | 1 | 2 | 3 | 4 => rfl
      | _ + 5 => rfl
  simp only [List.forall_mem_cons, List.not_mem_nil, false_implies, implies_true, and_true]
  exact ⟨⟨1, 0, rfl, rfl, rfl⟩, ⟨1, 1, rfl, rfl, rfl⟩, ⟨1, 2, rfl, rfl, rfl⟩, ⟨1, 3, rfl, rfl, rfl⟩, ⟨1, 4, rfl, rfl, rfl⟩,
    ⟨1, 5, rfl, rfl, rfl⟩, ⟨1, 6, rfl, rfl, rfl⟩, ⟨1, 7, rfl, rfl, rfl⟩, ⟨0, mode, rfl, rfl, rfl⟩⟩

/-! ### The foreign class -/

/-- Settles O29: the word's signature field is the foreign one, so Frame-Complete raises SignatureMismatch. -/
theorem foreignFrameRejected : Obligations.ForeignFrameRejected := by
  intro sig low s h
  have hforeign : sigOf (sig ++ low) ≠ Config.sigField := by rwa [sigOf_append]
  refine ⟨receiveWord (sig ++ low) s, rfl, ?_⟩
  rw [receiveWord_foreign hforeign]
  exact ⟨rfl, rfl, rfl, rfl, rfl⟩

/-! ### The bits that are not examined (R74) -/

/-- The fields of a word the Decoder looks at. -/
def checkedFields (word : ProtocolWord) : BitVec 15 × BitVec 4 × BitVec 4 × BitVec 1 × ModeCode :=
  (sigOf word, toffOf word, fanCodeOf word, flagOf word, modeCodeOf word)

/-- They are the word's bits outside 27:12. -/
theorem checkedFields_and (word : ProtocolWord) : checkedFields (word &&& 0x7FFF0000FFF) = checkedFields word := by
  have hmask : checkedFields 0x7FFF0000FFF =
    (BitVec.allOnes 15, BitVec.allOnes 4, BitVec.allOnes 4, BitVec.allOnes 1, BitVec.allOnes 3) := by decide
  simp only [checkedFields, Prod.mk.injEq] at hmask ⊢
  obtain ⟨hsig, htoff, hfan, hflag, hmode⟩ := hmask
  simp only [sigOf, toffOf, fanCodeOf, flagOf, modeCodeOf, BitVec.extractLsb'_and] at *
  simp only [hsig, htoff, hfan, hflag, hmode, BitVec.and_allOnes, and_self]

/-- Two words that agree in them end the last stage of a DECODE alike but for ACC. -/
theorem receiveWord_congr {a b : ProtocolWord} (h : checkedFields a = checkedFields b) (s : State) :
    { receiveWord a s with acc := b } = receiveWord b s := by
  simp only [checkedFields, Prod.mk.injEq] at h
  obtain ⟨hsig, htoff, hfan, hflag, hmode⟩ := h
  by_cases hvalid : sigOf b = Config.sigField
  · rw [receiveWord_valid hvalid, receiveWord_valid (hsig.trans hvalid), unpackWord, unpackWord, htoff, hfan, hflag, hmode]
    rfl
  · rw [receiveWord_foreign hvalid, receiveWord_foreign (hsig ▸ hvalid)]
    rfl

theorem receiveWord_acc (word : ProtocolWord) (s : State) : (receiveWord word s).acc = word := by
  rw [receiveWord, finishFrame_eq]
  split <;> rfl

/-- Settles O30: ENCODE writes 0 there; a word with the signature ends Ok; the last stage looks at the other fields alone. -/
theorem uncheckedBitsIgnored : Obligations.UncheckedBitsIgnored := by
  refine ⟨fun mode fan temp mb newmb word s hexec => ?_, fun word s t hsig hexec => ?_, fun a b s t u hmask ha hb => ?_⟩
  · have hword := encoderCanProduce_encodeState s.cfg.tie mode fan temp mb
    rw [exec_encode_iff.1 hexec] at hword
    obtain ⟨-, hz, -⟩ := hword
    exact hz
  · rw [exec_decodeFrame, receiveWord_valid hsig] at hexec
    cases hexec
    rfl
  · rw [exec_decodeFrame] at ha hb
    cases ha
    cases hb
    rw [receiveWord_acc]
    exact receiveWord_congr (by rw [← checkedFields_and a, hmask, checkedFields_and]) s

end Sys2Proof.Machine
end

section
/-! PROOFS of the family 30_encoding.md: EMIT, and the wire symbols emitted (R69, R107). -/

namespace Sys2Proof.Machine

/-! ### EMIT (R107) -/

/-- The segments of a word's frame: the header pair and the bit pairs, bit 0 first. -/
theorem framePulses_segments (p : TimingProfile) (word : ProtocolWord) :
    (framePulses p word).flatMap pulseSegments = [.mark p.hm, .space p.hs] ++
      (List.range 43).flatMap (fun i => [.mark p.bm, .space (if word.getLsbD i then p.os else p.zs)]) := by
  simp [framePulses, wordBits, headerPulse, bitPulse, pulseSegments, List.flatMap_map]

/-- Settles O10: EMIT's calls in the trace, and what they append to the frame. -/
theorem emitMakesTheFrame : Obligations.EmitMakesTheFrame := by
  intro word s hs
  refine ⟨emitWord word s, withTp_ready hs, ?_⟩
  rw [emitWord_eq, emitCalls_events, framePulses_segments]
  exact ⟨by simp only [List.append_assoc], by simp only [List.append_assoc], rfl⟩

/-! ### The symbols emitted -/

/-- Settles O13: a symbol whose registers are written and positive is its one call. -/
theorem emittedSymbolsAreOneCall : Obligations.EmittedSymbolsAreOneCall :=
  fun _ => ⟨fun h => withTp_runs h, fun h => withTp_runs h, fun h => withTp_runs h, fun h => withTp_runs h⟩

/-- On a ready machine a bit symbol is the call of the bit's pair. -/
theorem exec_symBit_ready {s : State} (h : Ready s) (b : Bool) :
    exec (if b then .symBit1 .tx else .symBit0 .tx) s = .next (txCall (pulseCall (bitPulse s.tp b)) s) := by
  cases b with
  | false => exact withTp_ready h
  | true => exact withTp_ready h

/-- Bit symbols and then SYM_TRAIL are the calls of their pairs and of the trailing mark. -/
theorem execAll_bits_trail (bits : List Bool) {s : State} (h : Ready s) :
    execAll (bits.map (fun b => if b then .symBit1 .tx else .symBit0 .tx) ++ [.symTrail .tx]) s =
      .next (txCalls (bits.map (fun b => pulseCall (bitPulse s.tp b)) ++ [.mark s.tp.bm]) s) := by
  induction bits generalizing s with
  | nil =>
    have htrail : exec (.symTrail .tx) s = .next (txCall (.mark s.tp.bm) s) := withTp_ready h
    simp only [List.map_nil, List.nil_append, execAll, htrail, txCalls]
  | cons b bits ih =>
    simp only [List.map_cons, List.cons_append, execAll, exec_symBit_ready h, txCalls]
    exact ih h

/-- A frame's symbols are EMIT's calls. -/
theorem execAll_frameSymbols (word : ProtocolWord) {s : State} (h : Ready s) :
    execAll (frameSymbols word) s = .next (txCalls (emitCalls s.tp word) s) := by
  have hheader : exec (.symHeader .tx) s = .next (txCall (pulseCall (headerPulse s.tp)) s) := withTp_ready h
  simp only [frameSymbols, emitCalls, framePulses, List.map_cons, List.map_map, List.cons_append, execAll, hheader, txCalls]
  exact execAll_bits_trail (wordBits word) h

/-- Settles O12: both are the same calls; EMIT sets IDX after them. -/
theorem emitIsItsSymbols : Obligations.EmitIsItsSymbols := by
  intro word s hs
  refine ⟨emitWord word s, withTp_ready hs, ?_⟩
  rw [execAll_frameSymbols word hs, emitWord, txCalls_eq]
  rfl

end Sys2Proof.Machine
end

section
/-! PROOFS of the family 30_encoding.md: the wire symbols on registers written or not (R31, R69, R145). -/

namespace Sys2Proof.Machine

/-! ### An operation that looks at some of the registers -/

/-- Two profiles that hold the same in the registers `rs`. -/
def AgreeOn (rs : List TpReg) (p q : TimingProfile) : Prop := ∀ r ∈ rs, tpGet p r = tpGet q r

/-- An operation that looks at the registers `rs` alone, and keeps all of them. -/
structure LooksAt (rs : List TpReg) (f : State → State) : Prop where
  keeps (s : State) : (f s).tp = s.tp
  looks {s : State} {p : TimingProfile} (h : AgreeOn rs p s.tp) : f { s with tp := p } = { f s with tp := p }

/-- Such an operation does what it does on the profile of all five, whichever of them are written. -/
theorem LooksAt.withProfile {rs : List TpReg} {f : State → State} (hf : LooksAt rs f) (s : State) :
    ∃ d, withProfile rs f s = { f { s with tp := tpProfile s } with tp := s.tp, draws := d } := by
  obtain ⟨hw, heq⟩ | ⟨-, heq⟩ := withProfile_cases rs f s
  · have hagree : AgreeOn rs (tpProfile s) s.tp := fun r hr => by
      rw [tpGet_tpProfile, tpRead_written (List.all_eq_true.1 hw r hr)]
    refine ⟨(f s).draws, ?_⟩
    rw [heq, hf.looks hagree, ← hf.keeps s]
  · exact ⟨_, heq⟩

/-- A usable machine runs it on that profile. -/
theorem LooksAt.withTp {rs : List TpReg} {f : State → State} (hf : LooksAt rs f) {s : State} (hs : Usable s) :
    ∃ d, withTp rs f s = .next { f { s with tp := tpProfile s } with tp := s.tp, draws := d } := by
  obtain ⟨d, heq⟩ := hf.withProfile s
  exact ⟨d, by rw [withTp_usable fun r _ => hs r (mem_allTp r), heq]⟩

/-- A call on the transmitter looks at the registers its argument is made of. -/
theorem looksAt_txCall {rs : List TpReg} {c : TimingProfile → TxCall}
    (hc : ∀ {p q}, AgreeOn rs p q → c p = c q) : LooksAt rs (fun s => txCall (c s.tp) s) where
  keeps _ := rfl
  looks h := by simp only [hc h]; rfl

/-- Expect-Header looks at the header mark and space. -/
theorem looksAt_tryHeader : LooksAt [.hm, .hs] (fun s => tryHeader (startDecode s)) where
  keeps s := (tryHeader_keeps (startDecode s)).tp
  looks {s p} h := by
    have hhm : p.hm = s.tp.hm := h .hm (by decide)
    have hhs : p.hs = s.tp.hs := h .hs (by decide)
    simp only [tryHeader_eq, startDecode, hhm, hhs]
    split <;> rfl

/-- The one-space try looks at the bit mark and the one-space. -/
theorem looksAt_tryOne : LooksAt [.bm, .os] (fun s => (tryOne s).2) where
  keeps s := (tryOne_keeps s).tp
  looks {s p} h := by
    have hbm : p.bm = s.tp.bm := h .bm (by decide)
    have hos : p.os = s.tp.os := h .os (by decide)
    simp only [tryOne_eq, hbm, hos]
    split <;> rfl

/-- The zero-space try looks at the bit mark and the zero-space. -/
theorem looksAt_tryZero : LooksAt [.bm, .zs] tryZero where
  keeps s := (tryZero_keeps s).tp
  looks {s p} h := by
    have hbm : p.bm = s.tp.bm := h .bm (by decide)
    have hzs : p.zs = s.tp.zs := h .zs (by decide)
    simp only [tryZero_eq, hbm, hzs]
    split <;> rfl

/-! ### What a try leaves (R145) -/

/-- Expect-Header at the start of a DECODE: no bit yet, and a bit expected next where the first pair matches. -/
theorem tryHeader_startDecode (s : State) :
    (tryHeader (startDecode s)).acc = 0 ∧ (tryHeader (startDecode s)).nb = 0 ∧
      (tryHeader (startDecode s)).fsm =
        if rxAnswer s.cfg.tolerance s.tp.hm s.tp.hs { s.rx with cur := 0 } then .expectBit else .failed := by
  rw [tryHeader_eq, startDecode_cfg, startDecode_tp, startDecode_rx]
  split <;> exact ⟨rfl, rfl, rfl⟩

/-- The count of bits does not wrap while a bit is expected. -/
theorem nb_succ {nb : BitVec 6} (h : nb.toNat < 43) : (nb + 1).toNat = nb.toNat + 1 := by
  bv_omega

/-- The one-space try: a 1 and the next pair, or nothing but the call. -/
theorem tryOne_result {s : State} (hnb : s.nb.toNat < 43) :
    if rxAnswer s.cfg.tolerance s.tp.bm s.tp.os s.rx then
      (tryOne s).2.acc = (s.acc >>> 1) ||| 0x40000000000 ∧ (tryOne s).2.nb.toNat = s.nb.toNat + 1 ∧
        (tryOne s).2.rx.cur = s.rx.cur + 1
    else (tryOne s).2.acc = s.acc ∧ (tryOne s).2.nb = s.nb ∧ (tryOne s).2.rx.cur = s.rx.cur ∧
      (tryOne s).2.fsm = s.fsm := by
  rw [tryOne_eq]
  split
  next => exact ⟨rfl, nb_succ hnb, rfl⟩
  next => exact ⟨rfl, rfl, rfl, rfl⟩

/-- The zero-space try: a 0 and the next pair, or TruncatedFrame. -/
theorem tryZero_result {s : State} (hnb : s.nb.toNat < 43) :
    if rxAnswer s.cfg.tolerance s.tp.bm s.tp.zs s.rx then
      (tryZero s).acc = s.acc >>> 1 ∧ (tryZero s).nb.toNat = s.nb.toNat + 1 ∧ (tryZero s).rx.cur = s.rx.cur + 1
    else (tryZero s).acc = s.acc ∧ (tryZero s).nb = s.nb ∧ (tryZero s).rx.cur = s.rx.cur ∧
      (tryZero s).fsm = .failed ∧ (tryZero s).res = .truncatedFrame := by
  rw [tryZero_eq]
  split
  next => exact ⟨BitVec.or_zero, nb_succ hnb, rfl⟩
  next => exact ⟨rfl, rfl, rfl, rfl, rfl⟩

/-- A symbol emitted on a usable machine is its call with the profile's registers, and changes nothing else. -/
theorem emitted_usable {rs : List TpReg} {c : TimingProfile → TxCall} {s : State} (hs : Usable s)
    (hc : ∀ {p q}, AgreeOn rs p q → c p = c q) (hcarrier : ∀ p t, (txApply (c p) t).carrier = t.carrier) :
    ∃ t, withTp rs (fun s => txCall (c s.tp) s) s = .next t ∧ t.events = s.events ++ [.tx (c (tpProfile s))] ∧
      t = { s with tx := { s.tx with frame := t.tx.frame }, events := t.events, draws := t.draws } := by
  obtain ⟨d, hexec⟩ := (looksAt_txCall hc).withTp hs
  refine ⟨_, hexec, rfl, ?_⟩
  simp only [txCall, ← hcarrier (tpProfile s) s.tx]

/-- Settles O48: the profile is the one all five registers read as; each symbol looks at its own registers of it. -/
theorem symbolsOnUnwrittenRegisters : Obligations.SymbolsOnUnwrittenRegisters := by
  intro s hs
  refine ⟨tpProfile s, readsAs_tpProfile s, ?_, ?_, fun hfsm hnb => ⟨?_, ?_⟩⟩
  · simp only [List.forall_mem_cons, List.not_mem_nil, false_implies, implies_true, and_true]
    refine ⟨?_, ?_, ?_, ?_⟩
    · exact emitted_usable (rs := [.hm, .hs]) (c := fun p => pulseCall (headerPulse p)) hs
        (fun h => congrArg₂ TxCall.pulse (h .hm (by decide)) (h .hs (by decide))) fun _ _ => rfl
    · exact emitted_usable (rs := [.bm, .os]) (c := fun p => pulseCall (bitPulse p true)) hs
        (fun h => congrArg₂ TxCall.pulse (h .bm (by decide)) (h .os (by decide))) fun _ _ => rfl
    · exact emitted_usable (rs := [.bm, .zs]) (c := fun p => pulseCall (bitPulse p false)) hs
        (fun h => congrArg₂ TxCall.pulse (h .bm (by decide)) (h .zs (by decide))) fun _ _ => rfl
    · exact emitted_usable (rs := [.bm]) (c := fun p => .mark p.bm) hs
        (fun h => congrArg TxCall.mark (h .bm (by decide))) fun _ _ => rfl
  · obtain ⟨d, hexec⟩ := looksAt_tryHeader.withTp hs
    exact ⟨_, hexec, rfl, tryHeader_startDecode { s with tp := tpProfile s }⟩
  · obtain ⟨d, hexec⟩ := looksAt_tryOne.withTp hs
    have htried : exec (.symBit1 .rx) s = _ := (execSymBit1_rx s).trans (if_pos ((expectsBit_iff s).2 ⟨hfsm, hnb⟩))
    exact ⟨_, htried.trans hexec, rfl, (tryOne_keeps { s with tp := tpProfile s }).buf,
      tryOne_result (s := { s with tp := tpProfile s }) hnb⟩
  · obtain ⟨d, hexec⟩ := looksAt_tryZero.withTp hs
    have htried : exec (.symBit0 .rx) s = _ := (execSymBit0_rx s).trans (if_pos ((expectsBit_iff s).2 ⟨hfsm, hnb⟩))
    exact ⟨_, htried.trans hexec, rfl, (tryZero_keeps { s with tp := tpProfile s }).buf,
      tryZero_result (s := { s with tp := tpProfile s }) hnb⟩

end Sys2Proof.Machine
end

section
/-! PROOFS of the family 40_encoder.md: the word ENCODE returns (R101 to R105), and what EMIT's frame tells of the word (R108). -/

namespace Sys2Proof.Machine

/-! ### The word of ENCODE, field by field (R101 to R105) -/

section
variable (tie : RoundTie) (mode : Mode) (fan : Fan) (temp : BitVec 16) (mb : ModeCode)

@[simp] theorem sigOf_encodeState : sigOf (encodeState tie mode fan temp mb).1 = Config.sigField := by
  rw [encodeState_fst, sigOf_wordOfFields]

@[simp] theorem uncheckedOf_encodeState : uncheckedOf (encodeState tie mode fan temp mb).1 = 0 := by
  rw [encodeState_fst, uncheckedOf_wordOfFields]

@[simp] theorem toffOf_encodeState : toffOf (encodeState tie mode fan temp mb).1 = tempOffset tie temp := by
  rw [encodeState_fst, toffOf_wordOfFields]

@[simp] theorem fanCodeOf_encodeState : fanCodeOf (encodeState tie mode fan temp mb).1 = fanMap fan := by
  rw [encodeState_fst, fanCodeOf_wordOfFields]

@[simp] theorem flagOf_encodeState : flagOf (encodeState tie mode fan temp mb).1 = (modeMap mode mb).1 := by
  rw [encodeState_fst, flagOf_wordOfFields]

@[simp] theorem modeCodeOf_encodeState : modeCodeOf (encodeState tie mode fan temp mb).1 = (modeMap mode mb).2 := by
  rw [encodeState_fst, modeCodeOf_wordOfFields]

/-- The new mode-before code is the mode field of the word (R103). -/
theorem encodeState_snd :
    (encodeState tie mode fan temp mb).2 = modeCodeOf (encodeState tie mode fan temp mb).1 := by
  rw [modeCodeOf_encodeState, encodeState]

end

/-- Settles O6: each field of the word is the one it was assembled from, and the two maps are the rule's tables. -/
theorem encodeBuildsTheWord : Obligations.EncodeBuildsTheWord := by
  intro mode fan temp mb s
  refine ⟨(encodeState s.cfg.tie mode fan temp mb).1, exec_encode_iff.2 (Prod.ext rfl (encodeState_snd ..)),
    sigOf_encodeState .., uncheckedOf_encodeState .., ?_, ?_, ?_⟩
  · rw [flagOf_encodeState]; cases mode <;> rfl
  · rw [modeCodeOf_encodeState]; cases mode <;> rfl
  · rw [fanCodeOf_encodeState]; cases fan <;> rfl

/-! ### The temperature field (R8, R104) -/

/-- Rounding goes to a nearest whole number. -/
theorem roundTo_nearest (tie : RoundTie) (v : Int) :
    -128 ≤ v - 256 * roundTo tie v ∧ v - 256 * roundTo tie v ≤ 128 := by
  cases tie with
  | halfUp => simp only [roundTo]; omega
  | halfEven => simp only [roundTo]; split_ifs <;> omega

/-- Under half_up a number halfway between two whole ones goes up, so it is never above the whole one by a half. -/
theorem sub_roundTo_halfUp_lt (v : Int) : v - 256 * roundTo .halfUp v < 128 := by
  simp only [roundTo]; omega

/-- Under half_even a number halfway between two whole ones goes to the even one. -/
theorem roundTo_halfEven_tie {v : Int}
    (h : v - 256 * roundTo .halfEven v = 128 ∨ v - 256 * roundTo .halfEven v = -128) :
    roundTo .halfEven v % 2 = 0 := by
  simp only [roundTo] at h ⊢
  split_ifs at h ⊢ <;> omega

theorem roundTo_whole (tie : RoundTie) (n : Int) : roundTo tie (n * 256) = n :=
  le_antisymm (roundTo_bounds tie le_rfl le_rfl).2 (roundTo_bounds tie le_rfl le_rfl).1

/-- Clamping to whole bounds and then rounding is rounding and then clamping. -/
theorem roundTo_clampInt (tie : RoundTie) (v : Int) {lo hi : Int} (h : lo ≤ hi) :
    roundTo tie (clampInt v (lo * 256) (hi * 256)) = max lo (min hi (roundTo tie v)) := by
  unfold clampInt
  split_ifs with hlo hhi
  · obtain ⟨-, hv⟩ := roundTo_bounds tie (lo := v / 256) (hi := lo) (v := v) (by omega) (by omega)
    rw [roundTo_whole]; omega
  · obtain ⟨hv, -⟩ := roundTo_bounds tie (lo := hi) (hi := v / 256 + 1) (v := v) (by omega) (by omega)
    rw [roundTo_whole]; omega
  · obtain ⟨hmin, hmax⟩ := roundTo_bounds tie (not_lt.1 hlo) (not_lt.1 hhi)
    omega

/-- The field holds the rounded temperature, less 16: nothing is cut off in its four bits. -/
theorem tempMin_add_tempOffset (tie : RoundTie) (temp : BitVec 16) :
    Config.tempMin + ((tempOffset tie temp).toNat : Int) = roundTo tie (tempClamped temp) := by
  obtain ⟨hlo, hhi⟩ := clampInt_bounds (tempRaw temp) (lo := Config.tempMin * 256) (hi := Config.tempMax * 256) (by decide)
  obtain ⟨hmin, hmax⟩ := roundTo_bounds tie hlo hhi
  rw [tempOffset, tempClamped, BitVec.toNat_ofInt]
  simp only [Config.tempMin, Config.tempMax] at hmin hmax ⊢
  omega

/-- Settles O7: the offset plus 16 is the clamped temperature rounded, and rounding goes to a nearest whole number. -/
theorem temperatureFieldIsNearest : Obligations.TemperatureFieldIsNearest := by
  intro mode fan temp mb s
  obtain ⟨hbelow, habove⟩ := roundTo_nearest s.cfg.tie (tempClamped temp)
  refine ⟨(encodeState s.cfg.tie mode fan temp mb).1, _, exec_encode_iff.2 rfl, ?_, tempClamped temp,
    roundTo s.cfg.tie (tempClamped temp), rfl, ?_, hbelow, habove, fun htie => ?_, roundTo_clampInt _ _ (by decide),
    fun htie htied => ?_⟩
  · rw [toffOf_encodeState]; exact tempOffset_le ..
  · rw [toffOf_encodeState, ← tempMin_add_tempOffset]; rfl
  · rw [htie]; exact ⟨sub_roundTo_halfUp_lt _, rfl⟩
  · rw [htie] at htied ⊢; exact roundTo_halfEven_tie htied

/-! ### EMIT's frame tells the word (R108) -/

/-- The pairs of a frame are read back from its segments; the trailing mark is no pair (R51). -/
theorem pairsOfFrame_pulseSegments (ps : List Pulse) (d : Dur) :
    pairsOfFrame (ps.flatMap pulseSegments ++ [.mark d]) = ps := by
  induction ps with
  | nil => rfl
  | cons p ps ih => rw [List.flatMap_cons, List.append_assoc]; exact congrArg (p :: ·) ih

/-- The pair of a bit tells the bit where the two spaces differ. -/
theorem bitPulse_injective {p : TimingProfile} (h : p.os ≠ p.zs) : Function.Injective (bitPulse p) := by
  intro a b hab
  have hspace := congrArg Pulse.space hab
  cases a <;> cases b
  · rfl
  · exact absurd hspace.symm h
  · exact absurd hspace h
  · rfl

theorem wordBits_injective : Function.Injective wordBits :=
  Function.LeftInverse.injective wordOfBits_wordBits

/-- The pairs of a word's frame tell the word where the two spaces differ. -/
theorem framePulses_injective {p : TimingProfile} (h : p.os ≠ p.zs) : Function.Injective (framePulses p) :=
  fun _ _ hab => wordBits_injective ((bitPulse_injective h).list_map (List.cons.inj hab).2)

/-- The frame EMIT leaves, on the profile it reads: what stood there, the word's pairs and the trailing mark. -/
theorem exec_emit_frame {word : ProtocolWord} {s t : State} (h : exec (.emit word) s = .next t) :
    t.tx.frame = s.tx.frame ++ ((framePulses (tpProfile s) word).flatMap pulseSegments ++ [.mark (tpProfile s).bm]) := by
  obtain ⟨d, heq⟩ := withProfile_allTp (f := emitWord word) (fun s => by rw [emitWord_eq]) s
  rw [(withTp_next h).2, heq, emitWord_eq]
  exact List.append_assoc ..

/-- Settles O11: both frames follow what stood on the transmitter, and the pairs read back from them tell the word. -/
theorem emitIsInjective : Obligations.EmitIsInjective := by
  intro a b s t u hos hzs hne ha hb hframe
  have hspaces : (tpProfile s).os ≠ (tpProfile s).zs := by
    change tpRead s .os ≠ tpRead s .zs
    rwa [tpRead_written hos, tpRead_written hzs]
  rw [exec_emit_frame ha, exec_emit_frame hb] at hframe
  have hpairs := congrArg pairsOfFrame (List.append_cancel_left hframe)
  rw [pairsOfFrame_pulseSegments, pairsOfFrame_pulseSegments] at hpairs
  exact framePulses_injective hspaces hpairs

end Sys2Proof.Machine
end

section
/-! PROOFS of the family 40_encoder.md: TRANSMIT (R109 to R111). -/

namespace Sys2Proof.Machine

/-- Command code 3 is TRANSMIT of the decoded ports (R78). -/
theorem decode_command_transmit {p : Ports} (h : p.cmd = 3) :
    decode (.command p) = .ok (.transmit (modeOfPort p.modeIn) (fanOfPort p.fanIn) p.tempIn) := by
  rw [decode, decodeCommand, h]
  rfl

/-- Settles O14: on a ready machine TRANSMIT is its steps, and the calls and segments of its frame are EMIT's. -/
theorem transmitEncodesSendsPublishes : Obligations.TransmitEncodesSendsPublishes := by
  refine ⟨fun p => decode_command_transmit, fun mode fan temp s hs => ⟨_, withTp_ready hs, ?_⟩⟩
  rw [runTransmit_eq, emitCalls_events, framePulses_segments]
  exact ⟨rfl, by simp only [List.append_assoc, List.cons_append, List.nil_append], rfl, rfl, rfl⟩

/-! ### The mode code a TRANSMIT leaves (R111) -/

@[simp] theorem runTransmit_w (mode : Mode) (fan : Fan) (temp : BitVec 16) (s : State) :
    (runTransmit mode fan temp s).w = (encodeState s.cfg.tie mode fan temp s.mb).1 := by rw [runTransmit_eq]

@[simp] theorem runTransmit_mb (mode : Mode) (fan : Fan) (temp : BitVec 16) (s : State) :
    (runTransmit mode fan temp s).mb = (modeMap mode s.mb).2 := by rw [runTransmit_eq, encodeState]

/-- An on-mode is written with flag 1 and its code (R102). -/
theorem modeMap_of_onCode_some {mode : Mode} {c : ModeCode} (h : onCode mode = some c) (mb : ModeCode) :
    modeMap mode mb = (1, c) := by
  cases mode with
  | cool | heat | auto | dry | fanOnly => cases h; rfl
  | off | unrecognized6 | unrecognized7 => cases h

/-- Off and the unrecognized modes are written with flag 0 and the mode-before code (R102). -/
theorem modeMap_of_onCode_none {mode : Mode} (h : onCode mode = none) (mb : ModeCode) : modeMap mode mb = (0, mb) := by
  cases mode with
  | cool | heat | auto | dry | fanOnly => cases h
  | off | unrecognized6 | unrecognized7 => rfl

/-- A word with flag 0 is read as Off, whatever its mode code (R139). -/
theorem unpackWord_mode_of_flag_zero {word : ProtocolWord} (h : flagOf word = 0) :
    (unpackWord word).mode = portOfMode .off := by
  rw [unpackWord, modeOf, if_pos h]

/-- Settles O15: flag and mode field are those of ModeMap, which an on-mode decides and the other modes take from MB. -/
theorem transmitCarriesTheModeCode : Obligations.TransmitCarriesTheModeCode := by
  intro mode fan temp s hs
  refine ⟨runTransmit mode fan temp s, withTp_ready hs, ?_, fun c hon => ?_, fun hoff => ?_⟩
  · rw [runTransmit_w, runTransmit_mb, modeCodeOf_encodeState]
  · rw [runTransmit_w, runTransmit_mb, flagOf_encodeState, modeMap_of_onCode_some hon]
    exact ⟨rfl, rfl⟩
  · have hflag : flagOf (runTransmit mode fan temp s).w = 0 := by
      rw [runTransmit_w, flagOf_encodeState, modeMap_of_onCode_none hoff]
    have hmb : (runTransmit mode fan temp s).mb = s.mb := by
      rw [runTransmit_mb, modeMap_of_onCode_none hoff]
    exact ⟨hflag, hmb, _, rfl, unpackWord_mode_of_flag_zero hflag⟩

end Sys2Proof.Machine
end

section
/-! PROOFS of the family 41_decoder.md: what a DECODE of a whole buffer leaves (R130, R143). -/

namespace Sys2Proof.Machine

/-! ### The calls of a bit loop (R133) -/

/-- From `s` to `t` the trace grows by calls of RxMatch alone. -/
def OnlyMatches (s t : State) : Prop := ∃ es, t.events = s.events ++ es ∧ es.all isRxMatch = true

theorem OnlyMatches.refl (s : State) : OnlyMatches s s := ⟨[], (List.append_nil _).symm, rfl⟩

theorem OnlyMatches.trans {s t u : State} (h : OnlyMatches s t) (k : OnlyMatches t u) : OnlyMatches s u := by
  obtain ⟨es, hes, hmatch⟩ := h
  obtain ⟨fs, hfs, kmatch⟩ := k
  exact ⟨es ++ fs, by rw [hfs, hes, List.append_assoc], by rw [List.all_append, hmatch, kmatch]; rfl⟩

theorem onlyMatches_rxAfter (em es : Dur) (b : Bool) (s : State) : OnlyMatches s (rxAfter em es b s) :=
  ⟨[.rxMatch em es b], rfl, rfl⟩

theorem onlyMatches_tryZero (s : State) : OnlyMatches s (tryZero s) := by
  rw [tryZero_eq]
  split
  · exact onlyMatches_rxAfter ..
  · exact onlyMatches_rxAfter ..

theorem onlyMatches_bitStep (s : State) : OnlyMatches s (bitStep s) := by
  rw [bitStep_eq]
  split
  · exact onlyMatches_rxAfter ..
  · exact (onlyMatches_rxAfter ..).trans (onlyMatches_tryZero _)

theorem onlyMatches_bitLoop (n : Nat) (s : State) : OnlyMatches s (bitLoop n s) := by
  induction n generalizing s with
  | zero => exact .refl s
  | succ n ih =>
    rw [bitLoop]
    split
    · exact (onlyMatches_bitStep s).trans (ih _)
    · exact .refl s

/-- So does the trace of a DECODE from its start to the end of the bit loop. -/
theorem onlyMatches_bitLoop_afterHeader (s : State) : OnlyMatches s (bitLoop 43 (afterHeader s)) :=
  (onlyMatches_rxAfter s.tp.hm s.tp.hs true s).trans (onlyMatches_bitLoop 43 _)

/-! ### A DECODE that completes with Ok (R143) -/

/-- On a ready machine DECODE is its state machine. -/
theorem exec_decode_ready {s : State} (h : Ready s) : exec .decode s = .next (runDecode s) :=
  withTp_ready h

/-- A DECODE from `s` ended in `t` with Ok on `word`: 44 pairs consumed, and after the calls of RxMatch the one Publish. -/
structure DecodedTo (word : ProtocolWord) (s t : State) : Prop where
  res : t.res = .ok
  fsm : t.fsm = .done
  nb : t.nb = 43
  cur : t.rx.cur = 44
  acc : t.acc = word
  out : t.out = unpackWord word
  trace : ∃ es, t.events = s.events ++ es ++ [.publishDecoded t.out] ∧ es.all isRxMatch = true

/-- A header and 43 bits with the signature are decoded to the word of the bits. -/
theorem runDecode_decodedTo {s : State} {q : Pulse} {qs : List Pulse} (hbuf : s.rx.buf = q :: qs)
    (hq : pulseMatches s.cfg.tolerance s.tp.hm s.tp.hs q = true)
    (hbits : (readBits s.cfg.tolerance s.tp 43 qs).length = 43)
    (hsig : sigOf (wordOfBits (readBits s.cfg.tolerance s.tp 43 qs)) = Config.sigField) :
    DecodedTo (wordOfBits (readBits s.cfg.tolerance s.tp 43 qs)) s (runDecode s) := by
  obtain ⟨hrun, hnb, hacc⟩ := runDecode_complete hbuf hq hbits
  obtain ⟨es, hevents, hmatch⟩ := onlyMatches_bitLoop_afterHeader s
  have hcur : (bitLoop 43 (afterHeader s)).rx.cur = 44 := by
    rw [(bitLoop_afterHeader hbuf).cur, hbits]; rfl
  have hvalid : validateWord (bitLoop 43 (afterHeader s)).acc = true := by
    rw [hacc, validateWord_iff, hsig]
  rw [hrun, finishFrame_eq, if_pos hvalid, hacc]
  exact ⟨rfl, rfl, hnb, hcur, hacc, rfl, es, by rw [succeed_events, hevents]; rfl, hmatch⟩

/-- Settles O21: the header and the 43 bits are decoded to the word of the bits. -/
theorem successfulDecodePublishes : Obligations.SuccessfulDecodePublishes := by
  intro s q qs hs hbuf hq hbits hsig
  obtain ⟨hres, hfsm, hnb, hcur, hacc, hout, es, hevents, hmatch⟩ := runDecode_decodedTo hbuf hq hbits hsig
  exact ⟨_, es, exec_decode_ready hs, hres, hfsm, hnb, hcur, hacc, hacc ▸ hout, hevents, hmatch⟩

/-! ### A DECODE of any buffer -/

/-- Settles O22: what the state machine reports is the contract's answer. -/
theorem decodeMeetsItsContract : Obligations.DecodeMeetsItsContract :=
  fun s hs => ⟨_, exec_decode_ready hs, runDecode_reports s⟩

/-- Settles O24: by what the Decoder keeps. -/
theorem decodeFrameRule : Obligations.DecodeFrameRule := by
  intro s hs
  obtain ⟨es, hevents, -⟩ := (runDecode_keeps s).events
  exact ⟨_, es, exec_decode_ready hs, hevents, (runDecode_keeps s).eq⟩

end Sys2Proof.Machine
end

section
/-! PROOFS of the family 41_decoder.md: the frame of an encoded state decodes to that state (R146). -/

namespace Sys2Proof.Machine

/-! ### A frame read back (R69, R146) -/

/-- A pair sent with the expected durations matches. -/
theorem pulseMatches_self {t : Tolerance} (h : MatchRefl t) (em es : Dur) :
    pulseMatches t em es { mark := em, space := es } = true := by
  rw [pulseMatches, h, h]; rfl

/-- The one-space is not taken for a zero-space. -/
theorem pulseMatches_one_zero {t : Tolerance} {p : TimingProfile} (h : Distinct t p) :
    pulseMatches t p.bm p.os (bitPulse p false) = false := by
  simp [pulseMatches, bitPulse, show toleranceMatches t p.os p.zs = false from h]

/-- Under the law's two premises the pairs of bits are read as these bits, whatever follows them. -/
theorem readBits_bitPulses {t : Tolerance} {p : TimingProfile} (hrefl : MatchRefl t) (hdistinct : Distinct t p)
    (bits : List Bool) (rest : List Pulse) :
    readBits t p bits.length (bits.map (bitPulse p) ++ rest) = bits := by
  have hone : pulseMatches t p.bm p.os (bitPulse p true) = true := pulseMatches_self hrefl ..
  have hzero : pulseMatches t p.bm p.zs (bitPulse p false) = true := pulseMatches_self hrefl ..
  induction bits with
  | nil => rfl
  | cons b bits ih =>
    rw [List.length_cons, List.map_cons, List.cons_append, readBits, ih]
    cases b with
    | true => rw [if_pos hone]
    | false => rw [if_neg (by simp [pulseMatches_one_zero hdistinct]), if_pos hzero]

/-- The frame of a word with the signature, followed by anything, is decoded to that word. -/
theorem runDecode_frame {word : ProtocolWord} {rest : List Pulse} {s : State} (hrefl : MatchRefl s.cfg.tolerance)
    (hdistinct : Distinct s.cfg.tolerance s.tp) (hsig : sigOf word = Config.sigField)
    (hbuf : s.rx.buf = framePulses s.tp word ++ rest) : DecodedTo word s (runDecode s) := by
  have hread : readBits s.cfg.tolerance s.tp 43 ((wordBits word).map (bitPulse s.tp) ++ rest) = wordBits word := by
    rw [← wordBits_length word, readBits_bitPulses hrefl hdistinct]
  have hcons : s.rx.buf = headerPulse s.tp :: ((wordBits word).map (bitPulse s.tp) ++ rest) := hbuf
  have hdecoded := runDecode_decodedTo hcons (pulseMatches_self hrefl _ _) (by rw [hread, wordBits_length])
    (by rw [hread, wordOfBits_wordBits, hsig])
  rwa [hread, wordOfBits_wordBits] at hdecoded

/-! ### An encoded state unpacked (R146) -/

section
variable (tie : RoundTie) (mode : Mode) (fan : Fan) (temp : BitVec 16) (mb : ModeCode)

/-- The mode if it is an on-mode, and Off otherwise. -/
theorem unpackWord_encodeState_mode : (unpackWord (encodeState tie mode fan temp mb).1).mode =
    if (onCode mode).isSome then portOfMode mode else portOfMode .off := by
  rw [unpackWord, flagOf_encodeState, modeCodeOf_encodeState]
  cases mode <;> rfl

/-- The fan speed FanOf makes of the code FanMap writes. -/
theorem unpackWord_encodeState_fan :
    (unpackWord (encodeState tie mode fan temp mb).1).fan = portOfFan (fanOf (fanMap fan)) := by
  rw [unpackWord, fanCodeOf_encodeState]

/-- The temperature rounded and clamped. -/
theorem unpackWord_encodeState_temp : ((unpackWord (encodeState tie mode fan temp mb).1).temp.toNat : Int) =
    max 16 (min 30 (roundTo tie temp.toInt)) := by
  have hround : roundTo tie (tempClamped temp) = max 16 (min 30 (roundTo tie temp.toInt)) :=
    roundTo_clampInt tie temp.toInt (by decide)
  rw [unpackWord, tempOf_toNat, toffOf_encodeState, ← hround, ← tempMin_add_tempOffset, Config.tempMin]
  omega

/-- A whole temperature in range comes back as itself. -/
theorem unpackWord_encodeState_temp_whole {n : Nat} (hmin : 16 ≤ n) (hmax : n ≤ 30)
    (htemp : temp = BitVec.ofNat 16 (256 * n)) : (unpackWord (encodeState tie mode fan temp mb).1).temp.toNat = n := by
  have hraw : temp.toInt = n * 256 := by
    rw [htemp, BitVec.toInt_ofNat', Int.bmod_eq_of_le] <;> omega
  have hclamped := unpackWord_encodeState_temp tie mode fan temp mb
  rw [hraw, roundTo_whole] at hclamped
  omega

end

/-- Settles O34: the frame is decoded to ENCODE's word, and the word is unpacked field by field. -/
theorem roundTripLaw : Obligations.RoundTripLaw := by
  intro mode fan temp mb word newmb rest s hs hrefl hdistinct hencode hbuf
  obtain rfl : (encodeState s.cfg.tie mode fan temp mb).1 = word := congrArg Prod.fst (exec_encode_iff.1 hencode)
  obtain ⟨hres, -, hnb, hcur, hacc, hout, -⟩ := runDecode_frame hrefl hdistinct (sigOf_encodeState ..) hbuf
  refine ⟨_, exec_decode_ready hs, hres, hnb, hacc, hcur, ?_⟩
  rw [hout]
  refine ⟨unpackWord_encodeState_mode .., ?_, tempOf_toNat _, rfl, fun _ => unpackWord_encodeState_temp_whole _ _ _ _ _⟩
  rw [unpackWord_encodeState_fan]
  cases fan <;> rfl

/-! ### The loop back (R146 over the air) -/

/-- The pairs of the frame a TRANSMIT sends are those of the word it leaves in W (R51). -/
theorem pairsOfFrame_runTransmit (mode : Mode) (fan : Fan) (temp : BitVec 16) (s : State) :
    pairsOfFrame (runTransmit mode fan temp s).tx.frame = framePulses s.tp (runTransmit mode fan temp s).w := by
  rw [runTransmit_eq]
  exact pairsOfFrame_pulseSegments ..

/-- No call of RxMatch is a Publish. -/
theorem countP_isPublish_of_isRxMatch {es : List Event} (h : es.all isRxMatch = true) : es.countP isPublish = 0 := by
  refine List.countP_eq_zero.2 fun e he => ?_
  have hmatch := List.all_eq_true.1 h e he
  cases e with
  | rxMatch => simp [isPublish]
  | tx | publishSent | publishDecoded => cases hmatch

/-- A DECODE that ends with Ok extends the trace, by one Publish among others. -/
theorem DecodedTo.publishes_once {word : ProtocolWord} {s t : State} (h : DecodedTo word s t) :
    t.events = s.events ++ t.events.drop s.events.length ∧
      (t.events.drop s.events.length).countP isPublish = 1 := by
  obtain ⟨es, hevents, hmatch⟩ := h.trace
  have hdrop : t.events.drop s.events.length = es ++ [.publishDecoded t.out] := by
    rw [hevents, List.append_assoc, List.drop_left]
  rw [hdrop, ← List.append_assoc, List.countP_append, countP_isPublish_of_isRxMatch hmatch]
  exact ⟨hevents, rfl⟩

/-- The frame a TRANSMIT sent, received as its pairs and followed by anything, is decoded to the word it left in W. -/
theorem runDecode_transmitted (mode : Mode) (fan : Fan) (temp : BitVec 16) (rest : List Pulse) {s t r : State}
    (hrefl : MatchRefl s.cfg.tolerance) (hdistinct : Distinct s.cfg.tolerance s.tp)
    (ht : t = runTransmit mode fan temp s) (hr : r = capture (pairsOfFrame t.tx.frame ++ rest) t) :
    DecodedTo t.w r (runDecode r) := by
  have hcfg : r.cfg = s.cfg := by rw [hr, capture_cfg, ht, runTransmit_eq]
  have htp : r.tp = s.tp := by rw [hr, capture_tp, ht, runTransmit_eq]
  refine runDecode_frame (rest := rest) (by rwa [hcfg]) (by rwa [hcfg, htp]) ?_ ?_
  · rw [ht, runTransmit_w, sigOf_encodeState]
  · rw [htp, hr, capture_rx, ht, pairsOfFrame_runTransmit]

/-- Settles O35: the pairs of the TRANSMIT's frame are decoded to the word it left in W, and the word is unpacked field by field. -/
theorem loopBackLaw : Obligations.LoopBackLaw := by
  intro mode fan temp rest s hs hrefl hdistinct
  obtain ⟨t, ht⟩ : ∃ t, t = runTransmit mode fan temp s := ⟨_, rfl⟩
  obtain ⟨r, hr⟩ : ∃ r, r = capture (pairsOfFrame t.tx.frame ++ rest) t := ⟨_, rfl⟩
  have htransmit : exec (.transmit mode fan temp) s = .next t := ht ▸ withTp_ready hs
  have hsent : timing t = timing s := by rw [ht, runTransmit_timing]
  have hreceived : timing r = timing t := by rw [hr]; rfl
  have hready : Ready r := ready_of_timing (hreceived.trans hsent) hs
  have hw : t.w = (encodeState s.cfg.tie mode fan temp s.mb).1 := by rw [ht, runTransmit_w]
  have hmb : r.mb = t.mb := by rw [hr, capture_mb]
  have htrace : r.events = t.events := by rw [hr, capture_events]
  have hdecoded := runDecode_transmitted mode fan temp rest hrefl hdistinct ht hr
  obtain ⟨hevents, honce⟩ := hdecoded.publishes_once
  rw [htrace] at hevents honce
  refine ⟨t, runDecode r, htransmit, by rw [← hr]; exact exec_decode_ready hready, hdecoded.res, hdecoded.acc,
    (runDecode_keeps r).mb.trans hmb, hdecoded.out, hdecoded.cur, ?_⟩
  rw [hdecoded.out, hw]
  refine ⟨unpackWord_encodeState_mode .., ?_, unpackWord_encodeState_temp .., rfl,
    fun _ => unpackWord_encodeState_temp_whole _ _ _ _ _, hevents, honce⟩
  rw [unpackWord_encodeState_fan]
  cases fan <;> rfl

end Sys2Proof.Machine
end

section
/-! PROOFS of the family 41_decoder.md: VALIDATE and UNPACK (R137 to R142). -/

namespace Sys2Proof.Machine

/-- Settles O26: the mask and the signature are the definition of the check, and the bits are the word's signature field. -/
theorem validateChecksTheSignature : Obligations.ValidateChecksTheSignature :=
  fun word _ => ⟨validateWord word, rfl, beq_iff_eq, validateWord_iff word⟩

/-- The command flag is bit 3 (R60). -/
theorem flagOf_eq_zero_iff (word : ProtocolWord) : flagOf word = 0 ↔ word.getLsbD 3 = false := by
  have hbit : (flagOf word).getLsbD 0 = word.getLsbD 3 := by simp [flagOf]
  rw [← hbit]
  generalize flagOf word = flag
  revert flag; decide

/-- Settles O27: the mode by the flag and its code, the fan speed by its code, the temperature by the offset. -/
theorem unpackExtractsTheFields : Obligations.UnpackExtractsTheFields := by
  intro word s
  refine ⟨unpackWord word, rfl, ?_, ?_, tempOf_toNat (toffOf word), rfl⟩
  · simp only [unpackWord, modeOf, flagOf_eq_zero_iff, modeCodeOf]
    split
    · rfl
    · generalize (word.extractLsb' 0 3).toNat = code
      match code with
      | 0 | 1 | 2 | 3 | 4 => rfl
      | _ + 5 => rfl
  · simp only [unpackWord, fanOf, fanCodeOf]
    generalize (word.extractLsb' 4 4).toNat = code
    match code with
    | 0 | 1 | 2 | 3 | 4 => rfl
    | _ + 5 => rfl

end Sys2Proof.Machine
end

section
/-! PROOFS of the family 41_decoder.md: the symbols tried by the Decoder (R131 to R135, R145). -/

namespace Sys2Proof.Machine

/-! ### A symbol on a ready machine -/

theorem exec_symHeader_ready {s : State} (h : Ready s) : exec (.symHeader .rx) s = .next (tryHeader (startDecode s)) :=
  withTp_ready h

theorem exec_symBit1_ready {s : State} (h : Ready s) (he : expectsBit s = true) :
    exec (.symBit1 .rx) s = .next (tryOne s).2 :=
  (if_pos he).trans (withTp_ready h)

theorem exec_symBit0_ready {s : State} (h : Ready s) (he : expectsBit s = true) :
    exec (.symBit0 .rx) s = .next (tryZero s) :=
  (if_pos he).trans (withTp_ready h)

/-- Where no bit is expected a bit symbol is not examined. -/
theorem exec_symBits_idle {s : State} (h : expectsBit s = false) :
    exec (.symBit1 .rx) s = .next s ∧ exec (.symBit0 .rx) s = .next s :=
  ⟨if_neg (by simp [h]), if_neg (by simp [h])⟩

theorem expectsBit_eq_false {s : State} (h : s.fsm ≠ .expectBit) : expectsBit s = false := by
  simp [expectsBit, h]

/-! ### The lines of the table -/

/-- The first pair matches: a DECODE after its header. -/
theorem tryHeader_matched {s : State} (h : rxAnswer s.cfg.tolerance s.tp.hm s.tp.hs { s.rx with cur := 0 } = true) :
    tryHeader (startDecode s) = afterHeader s := by
  rw [tryHeader_eq]; exact if_pos h

/-- It does not, or there is none: HeaderMismatch. -/
theorem tryHeader_failed {s : State} (h : rxAnswer s.cfg.tolerance s.tp.hm s.tp.hs { s.rx with cur := 0 } = false) :
    tryHeader (startDecode s) = raise .headerMismatch (rxAfter s.tp.hm s.tp.hs false (startDecode s)) := by
  rw [tryHeader_eq]; exact if_neg (by simp [h])

/-- Settles O32: each symbol is its try, and a try ends as the answer of its call says. -/
theorem receivedSymbolsFollowTheTable : Obligations.ReceivedSymbolsFollowTheTable := by
  intro s hs
  refine ⟨⟨_, exec_symHeader_ready hs, ?_⟩, fun hfsm hnb => ?_, fun hfsm => exec_symBits_idle (expectsBit_eq_false hfsm), rfl⟩
  · cases hbuf : s.rx.buf with
    | nil =>
      rw [tryHeader_failed (rxAnswer_nil (by simp [hbuf]))]
      exact ⟨rfl, rfl, rfl, rfl, rfl⟩
    | cons q qs =>
      have hanswer := rxAnswer_cons (t := s.cfg.tolerance) (em := s.tp.hm) (es := s.tp.hs) (r := { s.rx with cur := 0 }) hbuf
      simp only [List.head?_cons]
      split
      next hq => rw [tryHeader_matched (hanswer.trans hq)]; exact ⟨rfl, rfl, rfl, rfl, rfl⟩
      next hq => rw [tryHeader_failed (hanswer.trans (by simpa using hq))]; exact ⟨rfl, rfl, rfl, rfl, rfl⟩
  · have he : expectsBit s = true := (expectsBit_iff s).2 ⟨hfsm, hnb⟩
    refine ⟨⟨_, exec_symBit1_ready hs he, ?_⟩, _, exec_symBit0_ready hs he, (tryZero_keeps s).buf, ?_⟩
    · rw [tryOne_eq]
      split
      · exact ⟨rfl, nb_succ hnb, rfl, rfl, rfl⟩
      · rfl
    · rw [tryZero_eq]
      split
      · exact ⟨BitVec.or_zero, nb_succ hnb, rfl, rfl, rfl⟩
      · exact ⟨rfl, rfl, rfl, rfl, rfl⟩

/-! ### DECODE by its symbols -/

/-- NB is below 43 where a bit is expected and 43 where the frame is complete. -/
def CountsBits (s : State) : Prop := (s.fsm = .expectBit → s.nb.toNat < 43) ∧ (s.fsm = .frameComplete → s.nb = 43)

/-- A DECODE that failed expects no bit, and its frame is not complete. -/
theorem countsBits_raise (e : Res) (s : State) : CountsBits (raise e s) := ⟨nofun, nofun⟩

theorem countsBits_shiftIn (b : Bool) {s : State} (h : s.nb.toNat < 43) : CountsBits (shiftIn b s) := by
  have hsucc := nb_succ h
  rw [CountsBits, shiftIn_fsm, shiftIn_nb]
  split
  next h43 => exact ⟨nofun, fun _ => h43⟩
  next h43 =>
    have hne : (s.nb + 1).toNat ≠ 43 := fun hn => h43 (BitVec.eq_of_toNat_eq hn)
    exact ⟨fun _ => by omega, nofun⟩

theorem countsBits_tryHeader (s : State) : CountsBits (tryHeader (startDecode s)) := by
  obtain ⟨-, hnb, hfsm⟩ := tryHeader_startDecode s
  refine ⟨fun _ => by rw [hnb]; decide, fun h => ?_⟩
  rw [hfsm] at h
  split at h <;> cases h

theorem countsBits_tryZero {s : State} (h : s.nb.toNat < 43) : CountsBits (tryZero s) := by
  rw [tryZero_eq]
  split
  · exact countsBits_shiftIn _ h
  · exact countsBits_raise ..

theorem countsBits_bitStep {s : State} (h : s.nb.toNat < 43) : CountsBits (bitStep s) := by
  rw [bitStep_eq]
  split
  · exact countsBits_shiftIn _ h
  · exact countsBits_tryZero h

theorem countsBits_bitLoop (n : Nat) {s : State} (h : CountsBits s) : CountsBits (bitLoop n s) := by
  induction n generalizing s with
  | zero => exact h
  | succ n ih =>
    rw [bitLoop]
    split
    next hfsm => exact ih (countsBits_bitStep (h.1 hfsm))
    next => exact h

/-- A bit index by its symbols, where a bit is expected: SYM_BIT0 is tried exactly where SYM_BIT1 moved NB not on. -/
theorem symbolBit_expected {s : State} (hs : Ready s) (he : expectsBit s = true) : symbolBit s = .next (bitStep s) := by
  have hone := exec_symBit1_ready hs he
  rw [tryOne_eq] at hone
  rw [bitStep_eq]
  by_cases hanswer : rxAnswer s.cfg.tolerance s.tp.bm s.tp.os s.rx = true
  · have hmoved : s.nb + 1 ≠ s.nb := by bv_omega
    rw [if_pos hanswer] at hone ⊢
    simp only [symbolBit, hone]
    exact if_neg hmoved
  · rw [if_neg hanswer] at hone ⊢
    simp only [symbolBit, hone]
    exact (if_pos rfl).trans (exec_symBit0_ready (s := rxAfter s.tp.bm s.tp.os false s) hs he)

/-- Where none is expected it changes nothing. -/
theorem symbolBit_idle {s : State} (h : expectsBit s = false) : symbolBit s = .next s := by
  obtain ⟨hone, hzero⟩ := exec_symBits_idle h
  simp only [symbolBit, hone, hzero, if_true]

theorem symbolBits_idle (n : Nat) {s : State} (h : expectsBit s = false) : symbolBits n s = .next s := by
  induction n with
  | zero => rfl
  | succ n ih => rw [symbolBits, symbolBit_idle h]; exact ih

/-- The bit loop, symbol by symbol. -/
theorem symbolBits_eq (n : Nat) {s : State} (hs : Ready s) (hcount : CountsBits s) :
    symbolBits n s = .next (bitLoop n s) := by
  induction n generalizing s with
  | zero => rfl
  | succ n ih =>
    by_cases hfsm : s.fsm = .expectBit
    · have hnb := hcount.1 hfsm
      rw [symbolBits, symbolBit_expected hs ((expectsBit_iff s).2 ⟨hfsm, hnb⟩), bitLoop, if_pos hfsm]
      exact ih (ready_of_timing (bitStep_keeps s).timing hs) (countsBits_bitStep hnb)
    · rw [symbolBits_idle _ (expectsBit_eq_false hfsm), bitLoop_idle _ hfsm]

/-- Where the frame is complete its class is run as Frame-Complete on ACC. -/
theorem exec_decodeFrame_acc {s : State} (hfsm : s.fsm = .frameComplete) (hnb : s.nb = 43) :
    exec (decodeFrame s.acc) s = .next (finishFrame s) := by
  have hcomplete : completeFrame s.acc s = s := by rw [completeFrame, ← hnb, ← hfsm]
  rw [exec_decodeFrame, receiveWord, hcomplete]

/-- Settles O33: the header and the bit loop symbol by symbol, then the frame class of ACC. -/
theorem decodeIsItsSymbols : Obligations.DecodeIsItsSymbols := by
  intro s hs
  refine ⟨runDecode s, withTp_ready hs, ?_⟩
  have hready : Ready (tryHeader (startDecode s)) :=
    ready_of_timing ((DecoderKeeps.startDecode s).trans (tryHeader_keeps _)).timing hs
  have hcount := countsBits_tryHeader s
  simp only [decodeBySymbols, exec_symHeader_ready hs, symbolBits_eq 43 hready hcount, runDecode, finishIfComplete]
  split
  next hfsm => exact exec_decodeFrame_acc hfsm ((countsBits_bitLoop 43 hcount).2 hfsm)
  next => rfl

end Sys2Proof.Machine
end

section
/-! PROOFS of the family 41_decoder.md: the pairs after a frame (R135, R147). -/

namespace Sys2Proof.Machine

/-- The machine with more pairs at the end of the captured buffer. -/
def withMore (extra : List Pulse) (s : State) : State := { s with rx := { s.rx with buf := s.rx.buf ++ extra } }

section
variable (extra : List Pulse)

/-- A call of RxMatch on a pair of the buffer does not see the pairs after it (R47). -/
theorem rxAnswer_withMore {t : Tolerance} {em es : Dur} {r : Receiver} (h : r.cur < r.buf.length) :
    rxAnswer t em es { r with buf := r.buf ++ extra } = rxAnswer t em es r := by
  rw [rxAnswer, rxAnswer, List.getElem?_append_left h]

theorem tryHeader_withMore {s : State} (h : s.rx.cur < s.rx.buf.length) :
    tryHeader (withMore extra s) = withMore extra (tryHeader s) := by
  have hanswer := rxAnswer_withMore extra (t := s.cfg.tolerance) (em := s.tp.hm) (es := s.tp.hs) h
  rw [tryHeader_eq, tryHeader_eq, apply_ite (withMore extra), ← hanswer]
  rfl

theorem tryZero_withMore {s : State} (h : s.rx.cur < s.rx.buf.length) :
    tryZero (withMore extra s) = withMore extra (tryZero s) := by
  have hanswer := rxAnswer_withMore extra (t := s.cfg.tolerance) (em := s.tp.bm) (es := s.tp.zs) h
  rw [tryZero_eq, tryZero_eq, apply_ite (withMore extra), ← hanswer]
  rfl

theorem bitStep_withMore {s : State} (h : s.rx.cur < s.rx.buf.length) :
    bitStep (withMore extra s) = withMore extra (bitStep s) := by
  have hanswer := rxAnswer_withMore extra (t := s.cfg.tolerance) (em := s.tp.bm) (es := s.tp.os) h
  rw [bitStep_eq, bitStep_eq, apply_ite (withMore extra), ← hanswer,
    ← tryZero_withMore extra (s := rxAfter s.tp.bm s.tp.os false s) h]
  rfl

/-- A bit index consumes one pair at most (R133). -/
theorem bitStep_cur_le (s : State) : (bitStep s).rx.cur ≤ s.rx.cur + 1 := by
  rw [bitStep_eq, tryZero_eq]
  split_ifs <;> simp

/-- The bit loop does not see pairs it has too few indices for. -/
theorem bitLoop_withMore (n : Nat) {s : State} (h : s.rx.cur + n ≤ s.rx.buf.length) :
    bitLoop n (withMore extra s) = withMore extra (bitLoop n s) := by
  induction n generalizing s with
  | zero => rfl
  | succ n ih =>
    by_cases hfsm : s.fsm = .expectBit
    · have hcur := bitStep_cur_le s
      have hbuf := (bitStep_keeps s).buf
      rw [bitLoop, bitLoop, if_pos hfsm, if_pos (show (withMore extra s).fsm = _ from hfsm),
        bitStep_withMore extra (by omega), ih (by rw [hbuf]; omega)]
    · rw [bitLoop_idle _ hfsm, bitLoop_idle _ (show (withMore extra s).fsm ≠ _ from hfsm)]

theorem finishIfComplete_withMore (s : State) :
    finishIfComplete (withMore extra s) = withMore extra (finishIfComplete s) := by
  simp only [finishIfComplete, finishFrame_eq, apply_ite (withMore extra)]
  rfl

/-- A DECODE tries the first pair and at most 43 more (R135). -/
theorem runDecode_withMore {s : State} (h : 44 ≤ s.rx.buf.length) :
    runDecode (withMore extra s) = withMore extra (runDecode s) := by
  have hbuf := ((DecoderKeeps.startDecode s).trans (tryHeader_keeps _)).buf
  have hcur : (tryHeader (startDecode s)).rx.cur ≤ 1 := by
    rw [tryHeader_eq]
    split <;> simp
  have hheader : tryHeader (startDecode (withMore extra s)) = withMore extra (tryHeader (startDecode s)) :=
    tryHeader_withMore extra (s := startDecode s) (show 0 < s.rx.buf.length by omega)
  rw [runDecode, hheader, bitLoop_withMore extra 43 (by rw [hbuf]; omega), finishIfComplete_withMore, runDecode]

/-- What is read of a timing register not written does not depend on the buffer. -/
theorem withProfile_withMore {f : State → State} {s : State}
    (hf : ∀ p, f (withMore extra { s with tp := p }) = withMore extra (f { s with tp := p })) (rs : List TpReg) :
    withProfile rs f (withMore extra s) = withMore extra (withProfile rs f s) := by
  obtain ⟨hw, heq⟩ | ⟨hw, heq⟩ := withProfile_cases rs f s
  · rw [heq, withProfile_written f (show rs.all (tpIsWritten (withMore extra s).tpWritten) = true from hw)]
    exact hf s.tp
  · rw [heq, withProfile_unwritten f (show rs.all (tpIsWritten (withMore extra s).tpWritten) = false from hw)]
    have hprofile : f { withMore extra s with tp := tpProfile (withMore extra s) } =
        withMore extra (f { s with tp := tpProfile s }) := hf (tpProfile s)
    rw [hprofile]
    rfl

end

/-- Settles O37: the DECODE with more pairs reads the same registers, and its calls the same pairs. -/
theorem pairsAfterTheFrameIgnored : Obligations.PairsAfterTheFrameIgnored := by
  intro s t extra hlen hexec
  obtain ⟨husable, rfl⟩ := withTp_next hexec
  have hrun : withProfile allTp runDecode (withMore extra s) = withMore extra (withProfile allTp runDecode s) :=
    withProfile_withMore extra (fun _ => runDecode_withMore extra hlen) allTp
  exact (withTp_usable (s := withMore extra s) husable).trans (congrArg _ hrun)

end Sys2Proof.Machine
end

section
/-! PROOFS of the family 42_timing_profile.md: NOP, WRTP and RDTP (R170 to R172). -/

namespace Sys2Proof.Machine

/-! ### The command codes (R78) -/

/-- A command decodes as the one with its code written out; for a literal code that is an instruction by evaluation. -/
theorem decode_command_of_cmd {p : Ports} {c : BitVec 3} (h : p.cmd = c) :
    decode (.command p) = .ok (decodeCommand { p with cmd := c }) := by
  subst h
  rfl

/-! ### An index that selects no register (R41) -/

/-- WRTP of an index that selects no register is refused. -/
theorem exec_wrtp_unmapped {i : BitVec 3} (h : 4 < i.toNat) (v : Dur) (s : State) :
    exec (.wrtp i v) s = .refused (.tpIndexUnmapped i) := by
  simp only [exec, execWrtp, tpOfIndex_eq_none.2 h]

/-- RDTP of an index that selects no register is refused. -/
theorem exec_rdtp_unmapped {i : BitVec 3} (h : 4 < i.toNat) (s : State) :
    exec (.rdtp i) s = .refused (.tpIndexUnmapped i) := by
  simp only [exec, execRdtp, tpOfIndex_eq_none.2 h]

/-! ### An index that selects a register (R170, R171) -/

/-- WRTP of a register is its write, whatever the value. -/
theorem exec_wrtp (r : TpReg) (v : Dur) (s : State) : exec (.wrtp (tpIndex r) v) s = .next (writeTp r v s) := by
  simp only [exec, execWrtp, tpOfIndex_tpIndex]

/-- A register that may not be read refuses the read by its own name. -/
theorem tpUnreadable_singleton {r : TpReg} {s : State} (h : tpMayRead s r = false) :
    tpUnreadable [r] s = some (.tpUnwritten r) := by
  simp [tpUnreadable, h]

/-- RDTP of a register not written is refused, where the parameter refuses its use. -/
theorem exec_rdtp_refused {r : TpReg} {s : State} (hr : tpIsWritten s.tpWritten r = false)
    (hcfg : s.cfg.unwritten = .refused) : exec (.rdtp (tpIndex r)) s = .refused (.tpUnwritten r) := by
  have hread : tpMayRead s r = false := by simp [tpMayRead, hr, hcfg]
  simp only [exec, execRdtp, tpOfIndex_tpIndex, tpUnreadable_singleton hread]

/-- RDTP of a register not written puts what it reads as on tp_rdata, where the parameter lets it be read. -/
theorem exec_rdtp_unspecified {r : TpReg} {s : State} (hr : tpIsWritten s.tpWritten r = false)
    (hcfg : s.cfg.unwritten = .unspecified) :
    exec (.rdtp (tpIndex r)) s = .next { s with tpRdata := tpRead s r, draws := s.draws + 1 } := by
  have hread : tpUnreadable [r] s = none := tpUnreadable_eq_none.2 (by simp [(tpMayRead_unwritten hr).2 hcfg])
  simp only [exec, execRdtp, tpOfIndex_tpIndex, hread]
  rw [withProfile_unwritten _ (by simp [hr]), tpGet_tpProfile]
  rfl

/-- Settles O1: the decoder looks at the code alone, and NOP's meaning is the state it got. -/
theorem nopChangesNothing : Obligations.NopChangesNothing :=
  ⟨fun _ => decode_command_of_cmd, fun _ => rfl⟩

/-- Settles O2: WRTP is the write of its register, which reads back from there and leaves the other four. -/
theorem wrtpWritesOneRegister : Obligations.WrtpWritesOneRegister :=
  ⟨fun _ => decode_command_of_cmd,
    fun r v s => ⟨writeTp r v s, exec_wrtp r v s, tpGet_tpSet_same _ r v, fun _ => tpGet_tpSet_other _ v,
      tpIsWritten_mark _ r, rfl⟩,
    fun _ v s h => exec_wrtp_unmapped h v s⟩

/-- Settles O3: a written register reads as its value; of one not written the parameter decides. -/
theorem rdtpReadsOneRegister : Obligations.RdtpReadsOneRegister :=
  ⟨fun _ => decode_command_of_cmd, fun _ _ => exec_rdtp_written, fun _ _ => exec_rdtp_refused,
    fun r s hr hcfg => ⟨tpRead s r, exec_rdtp_unspecified hr hcfg⟩, fun _ s h => exec_rdtp_unmapped h s⟩

end Sys2Proof.Machine
end

section
/-! PROOFS of the family 60_exceptions.md: the three frame errors, and what the host reads of them (R180 to R184). -/

namespace Sys2Proof.Machine

/-- Settles O31: `raise` is the write of RES, FSM and OUT, with one value drawn for OUT. -/
theorem raiseWritesTheResultOnly : Obligations.RaiseWritesTheResultOnly :=
  fun e s => ⟨raise_res s e, raise_fsm s e, rfl, rfl⟩

/-! ### HeaderMismatch (R181) -/

/-- The first call of a DECODE answers false on an empty buffer and on a first pair that does not match (R47, R132). -/
theorem rxAnswer_first_false {t : Tolerance} {em es : Dur} {r : Receiver}
    (h : ∀ q, r.buf.head? = some q → pulseMatches t em es q = false) : rxAnswer t em es { r with cur := 0 } = false := by
  cases hbuf : r.buf with
  | nil => exact rxAnswer_nil rfl
  | cons q qs => exact (rxAnswer_cons rfl).trans (h q (by rw [hbuf]; rfl))

/-- Settles O18: the one call answers false, so the error is raised where the DECODE started. -/
theorem headerMismatchEndsDecode : Obligations.HeaderMismatchEndsDecode := by
  intro s hs hfirst
  refine ⟨_, exec_decode_ready hs, ?_⟩
  rw [runDecode_headerMismatch (rxAnswer_first_false hfirst)]
  exact ⟨rfl, rfl, rfl, rfl, rfl, rfl⟩

/-! ### TruncatedFrame (R182) -/

/-- Settles O19: the DECODE is its bit loop, which counts the bits and the pairs it consumed and makes calls of RxMatch alone. -/
theorem truncatedFrameReportsBits : Obligations.TruncatedFrameReportsBits := by
  intro s q qs hs hbuf hq hbits
  have hloop := bitLoop_afterHeader hbuf
  obtain ⟨hfsm, hres⟩ := hloop.truncated hbits
  obtain ⟨es, hevents, hmatch⟩ := onlyMatches_bitLoop_afterHeader s
  have hnb : (bitLoop 43 (afterHeader s)).nb.toNat = (readBits s.cfg.tolerance s.tp 43 qs).length :=
    hloop.nb.trans (Nat.zero_add _)
  refine ⟨_, es, exec_decode_ready hs, ?_⟩
  rw [runDecode_truncated hbuf hq hbits]
  exact ⟨hres, hfsm, hnb, by rw [hnb]; exact hloop.cur, hevents, hmatch⟩

/-! ### SignatureMismatch (R183) -/

/-- Settles O20: Frame-Complete is reached with the word of the bits, whose signature field fails the check. -/
theorem signatureMismatchEndsDecode : Obligations.SignatureMismatchEndsDecode := by
  intro s q qs hs hbuf hq hbits hsig
  obtain ⟨hrun, hnb, hacc⟩ := runDecode_complete hbuf hq hbits
  obtain ⟨es, hevents, hmatch⟩ := onlyMatches_bitLoop_afterHeader s
  have hcur : (bitLoop 43 (afterHeader s)).rx.cur = 44 := by
    rw [(bitLoop_afterHeader hbuf).cur, hbits]; rfl
  have hinvalid : ¬validateWord (bitLoop 43 (afterHeader s)).acc = true := by
    rw [hacc, validateWord_iff]; exact hsig
  refine ⟨_, es, exec_decode_ready hs, ?_⟩
  rw [hrun, finishFrame_eq, if_neg hinvalid]
  exact ⟨rfl, rfl, hnb, hcur, hevents, hmatch⟩

/-! ### The output ports (R77, R83, R180) -/

/-- UNPACK's mode is one of the six of `out_mode`. -/
theorem unpackWord_mode_le (word : ProtocolWord) : (unpackWord word).mode.toNat ≤ 5 := by
  have hmodes : ∀ flag code, (portOfMode (modeOf flag code)).toNat ≤ 5 := by decide
  exact hmodes ..

/-- UNPACK's fan speed is one of the five of `out_fan`. -/
theorem unpackWord_fan_le (word : ProtocolWord) : (unpackWord word).fan.toNat ≤ 4 := by
  have hfans : ∀ code, (portOfFan (fanOf code)).toNat ≤ 4 := by decide
  exact hfans _

theorem unpackWord_temp_ge (word : ProtocolWord) : 16 ≤ (unpackWord word).temp.toNat :=
  (Nat.le_add_left ..).trans_eq (tempOf_toNat (toffOf word)).symm

/-- What the contract answers with Ok is a word unpacked (R143). -/
theorem unpackWord_of_decodeContract {t : Tolerance} {p : TimingProfile} {buf : List Pulse} {o : Out}
    (h : decodeContract t p buf = .ok o) : ∃ word, o = unpackWord word := by
  unfold decodeContract at h
  split at h
  · cases h
  · simp only at h
    split_ifs at h
    cases h
    exact ⟨_, rfl⟩

/-- Settles O23: the ports are the registers, DECODE keeps MB, and the registers report the contract's answer. -/
theorem outputPortsReportTheDecode : Obligations.OutputPortsReportTheDecode := by
  constructor
  · intro s
    refine ⟨rfl, rfl, rfl, rfl, rfl, rfl, rfl, ?_⟩
    rw [outputs_res]
    cases s.res <;> rfl
  · intro s hs
    refine ⟨_, exec_decode_ready hs, (runDecode_keeps s).mb, ?_⟩
    have hreports := runDecode_reports s
    cases hanswer : decodeContract s.cfg.tolerance s.tp s.rx.buf with
    | ok o =>
      obtain ⟨word, rfl⟩ := unpackWord_of_decodeContract hanswer
      rw [hanswer] at hreports
      obtain ⟨hres, hnb, -, hout⟩ := hreports
      simp only [outputs_res, outputs_nb, outputs_outMode, outputs_outFan, outputs_outTemp, outputs_outSwing, hres, hnb,
        hout, true_and]
      exact ⟨rfl, rfl, unpackWord_mode_le word, unpackWord_fan_le word, unpackWord_temp_ge word⟩
    | error e =>
      rw [hanswer] at hreports
      cases e with
      | headerMismatch | signatureMismatch =>
        obtain ⟨hres, hnb, -⟩ := hreports
        exact ⟨congrArg resCode hres, hnb⟩
      | truncated n =>
        obtain ⟨hres, hnb, hle, -⟩ := hreports
        exact ⟨congrArg resCode hres, hnb, hle⟩

end Sys2Proof.Machine
end

section
/-! PROOFS of the family 60_exceptions.md: what is published (R143, R144, R188). -/

namespace Sys2Proof.Machine

/-! ### Counting the Publishes of an operation -/

/-- From `s` to `t` the trace grows, by `n` Publishes among others. -/
def Publishes (n : Nat) (s t : State) : Prop := ∃ es, t.events = s.events ++ es ∧ es.countP isPublish = n

theorem Publishes.of_events_eq {s t : State} (h : t.events = s.events) : Publishes 0 s t :=
  ⟨[], by rw [h, List.append_nil], rfl⟩

/-- Calls of RxMatch before an operation add no Publish to it. -/
theorem OnlyMatches.trans_publishes {n : Nat} {s t u : State} (h : OnlyMatches s t) (k : Publishes n t u) :
    Publishes n s u := by
  obtain ⟨es, hes, hmatch⟩ := h
  obtain ⟨fs, hfs, hn⟩ := k
  exact ⟨es ++ fs, by rw [hfs, hes, List.append_assoc],
    by rw [List.countP_append, countP_isPublish_of_isRxMatch hmatch, Nat.zero_add, hn]⟩

theorem OnlyMatches.publishes {s t : State} (h : OnlyMatches s t) : Publishes 0 s t :=
  h.trans_publishes (.of_events_eq rfl)

/-- What an operation publishes, by the result it leaves, it publishes on unwritten registers too. -/
theorem withProfile_publishes {f : State → State} (n : Res → Nat) (hf : ∀ s, Publishes (n (f s).res) s (f s))
    (rs : List TpReg) (s : State) : Publishes (n (withProfile rs f s).res) s (withProfile rs f s) :=
  withProfile_transfer (P := fun u => u.events = s.events) (Q := fun t => Publishes (n t.res) s t)
    (fun _ _ h => h) (fun _ _ _ h => h)
    (fun u hu => by have h := hf u; rwa [Publishes, hu] at h) rs rfl

/-! ### The Encoder's operations -/

/-- No call on the transmitter is a Publish. -/
theorem countP_isPublish_map_tx (cs : List TxCall) : (cs.map Event.tx).countP isPublish = 0 := by
  rw [List.countP_map, List.countP_eq_zero]
  exact fun _ _ => Bool.false_ne_true

theorem emitWord_publishes (word : ProtocolWord) (s : State) : Publishes 0 s (emitWord word s) := by
  rw [emitWord_eq]
  exact ⟨_, rfl, countP_isPublish_map_tx _⟩

/-- TRANSMIT publishes last, after its calls (R110). -/
theorem runTransmit_publishes (mode : Mode) (fan : Fan) (temp : BitVec 16) (s : State) :
    Publishes 1 s (runTransmit mode fan temp s) := by
  refine ⟨_, by rw [runTransmit_eq]; simp only [List.append_assoc]; rfl, ?_⟩
  rw [List.countP_append, List.countP_append, countP_isPublish_map_tx]
  rfl

/-! ### The Decoder's operations -/

theorem onlyMatches_tryHeader (s : State) : OnlyMatches s (tryHeader (startDecode s)) := by
  rw [tryHeader_eq]
  split
  · exact onlyMatches_rxAfter (s := startDecode s) ..
  · exact onlyMatches_rxAfter (s := startDecode s) ..

theorem onlyMatches_tryOne (s : State) : OnlyMatches s (tryOne s).2 := by
  rw [tryOne_eq]
  split
  · exact onlyMatches_rxAfter ..
  · exact onlyMatches_rxAfter ..

/-- One Publish where the DECODE ended with Ok, none where it did not (R143, R144). -/
def publishesOfResult (r : Res) : Nat := if r = .ok then 1 else 0

theorem finishFrame_publishes (s : State) : Publishes (publishesOfResult (finishFrame s).res) s (finishFrame s) := by
  rw [finishFrame_eq]
  split
  · exact ⟨[.publishDecoded (unpackWord s.acc)], rfl, rfl⟩
  · exact .of_events_eq rfl

/-- A DECODE publishes at Frame-Complete, where its buffer gets it there; the other two errors come before. -/
theorem runDecode_publishes (s : State) : Publishes (publishesOfResult (runDecode s).res) s (runDecode s) := by
  cases hanswer : rxAnswer s.cfg.tolerance s.tp.hm s.tp.hs { s.rx with cur := 0 } with
  | false =>
    rw [runDecode_headerMismatch hanswer]
    exact (onlyMatches_rxAfter s.tp.hm s.tp.hs false (startDecode s)).publishes
  | true =>
    obtain ⟨q, qs, hbuf⟩ := List.exists_cons_of_length_pos (rxAnswer_true hanswer)
    have hq : pulseMatches s.cfg.tolerance s.tp.hm s.tp.hs q = true :=
      (rxAnswer_cons (r := { s.rx with cur := 0 }) hbuf).symm.trans hanswer
    have hloop := onlyMatches_bitLoop_afterHeader s
    obtain hbits | hbits := (readBits_length_le s.cfg.tolerance s.tp 43 qs).lt_or_eq
    · obtain ⟨-, hres⟩ := (bitLoop_afterHeader hbuf).truncated hbits
      rw [runDecode_truncated hbuf hq hbits, hres]
      exact hloop.publishes
    · rw [(runDecode_complete hbuf hq hbits).1]
      exact hloop.trans_publishes (finishFrame_publishes _)

/-! ### Every operation -/

theorem endsDecode_of_isFrame {i : Instr} (h : isFrame i = true) : endsDecode i = true := by
  cases i <;> simp_all [isFrame, endsDecode]

theorem not_endsDecode_of_isPure {i : Instr} (h : isPure i = true) : endsDecode i = false := by
  cases i <;> simp_all [isPure, endsDecode]

theorem not_endsDecode_of_isEmitted {i : Instr} (h : isEmitted i = true) : endsDecode i = false := by
  cases i <;> simp_all [isEmitted, endsDecode]

/-- A TRANSMIT that completes publishes once (R110). -/
theorem exec_transmit_publishes {mode : Mode} {fan : Fan} {temp : BitVec 16} {s t : State}
    (h : exec (.transmit mode fan temp) s = .next t) : Publishes 1 s t := by
  obtain ⟨-, rfl⟩ := withTp_next h
  exact withProfile_publishes (fun _ => 1) (runTransmit_publishes mode fan temp) allTp s

/-- An operation that ends a DECODE publishes by its result (R143, R144). -/
theorem exec_endsDecode_publishes {i : Instr} {s t : State} (h : exec i s = .next t) (hi : endsDecode i = true) :
    Publishes (publishesOfResult t.res) s t := by
  cases exec_did h with
  | decode => exact withProfile_publishes publishesOfResult runDecode_publishes ..
  | frame _ word => exact finishFrame_publishes (completeFrame word s)
  | pure _ _ _ hp => simp [not_endsDecode_of_isPure hp] at hi
  | emitted _ _ _ _ he => simp [not_endsDecode_of_isEmitted he] at hi
  | nop | wrtp | rdtp | transmit | emit | protocolWord | rxHeader | rxBit1 | rxBit0 | rxBit1Ignored | rxBit0Ignored
  | rxTrail => cases hi

/-- Every other operation publishes nothing. -/
theorem exec_publishes_nothing {i : Instr} {s t : State} (h : exec i s = .next t)
    (ht : ∀ m f v, i ≠ .transmit m f v) (hi : endsDecode i = false) : Publishes 0 s t := by
  have onProfile {f : State → State} (hf : ∀ s, Publishes 0 s (f s)) (rs : List TpReg) (s : State) :=
    withProfile_publishes (fun _ => 0) hf rs s
  cases exec_did h with
  | nop | wrtp | pure | protocolWord | rxBit1Ignored | rxBit0Ignored | rxTrail => exact .of_events_eq rfl
  | transmit => exact absurd rfl (ht _ _ _)
  | decode => cases hi
  | frame _ _ _ hf => simp [endsDecode_of_isFrame hf] at hi
  | rdtp => exact onProfile (fun _ => .of_events_eq (by rfl)) ..
  | emit => exact onProfile (emitWord_publishes _) ..
  | emitted _ _ c => exact onProfile (fun s => ⟨[.tx (c s)], rfl, rfl⟩) ..
  | rxHeader => exact onProfile (fun s => (onlyMatches_tryHeader s).publishes) ..
  | rxBit1 => exact onProfile (fun s => (onlyMatches_tryOne s).publishes) ..
  | rxBit0 => exact onProfile (fun s => (onlyMatches_tryZero s).publishes) ..

/-- Settles O57: a TRANSMIT publishes, an operation that ends a DECODE publishes by its result, and no other does. -/
theorem publishOncePerSuccess : Obligations.PublishOncePerSuccess := by
  intro i s t h
  split
  next => exact exec_transmit_publishes h
  next ht =>
    cases hi : endsDecode i with
    | true =>
      simp only [true_and]
      exact exec_endsDecode_publishes h hi
    | false =>
      simp only [Bool.false_eq_true, false_and, if_false]
      exact exec_publishes_nothing h ht hi

end Sys2Proof.Machine
end

section
/-! PROOFS of the family 60_exceptions.md: TRANSMIT and DECODE in either order (R188). -/

namespace Sys2Proof.Machine

/-! ### The Decoder beside another state of the Encoder -/

/-- `s` with what the Encoder writes taken from `u`, and the trace of `u` before its own. -/
def beside (u s : State) : State :=
  { s with mb := u.mb, w := u.w, idx := u.idx, tx := u.tx, events := u.events ++ s.events }

section
variable (u s : State)

theorem rxAfter_beside (em es : Dur) (b : Bool) : rxAfter em es b (beside u s) = beside u (rxAfter em es b s) := by
  simp only [rxAfter, beside, List.append_assoc]

theorem succeed_beside (o : Out) : succeed o (beside u s) = beside u (succeed o s) := by
  simp only [succeed, publish, beside, List.append_assoc]

theorem tryHeader_beside : tryHeader (beside u s) = beside u (tryHeader s) := by
  simp only [tryHeader_eq, apply_ite (beside u), rxAfter_beside]
  rfl

theorem tryZero_beside : tryZero (beside u s) = beside u (tryZero s) := by
  simp only [tryZero_eq, apply_ite (beside u), rxAfter_beside]
  rfl

theorem bitStep_beside : bitStep (beside u s) = beside u (bitStep s) := by
  simp only [bitStep_eq, apply_ite (beside u), rxAfter_beside, tryZero_beside]
  rfl

theorem bitLoop_beside (n : Nat) : bitLoop n (beside u s) = beside u (bitLoop n s) := by
  induction n generalizing s with
  | zero => rfl
  | succ n ih =>
    simp only [bitLoop, apply_ite (beside u), bitStep_beside, ih]
    rfl

theorem finishIfComplete_beside : finishIfComplete (beside u s) = beside u (finishIfComplete s) := by
  simp only [finishIfComplete, finishFrame_eq, apply_ite (beside u), ← succeed_beside]
  rfl

/-- The Decoder reads nothing that the Encoder writes, and nothing of the trace (R188). -/
theorem runDecode_beside : runDecode (beside u s) = beside u (runDecode s) := by
  have hstart : startDecode (beside u s) = beside u (startDecode s) := rfl
  simp only [runDecode, hstart, tryHeader_beside, bitLoop_beside, finishIfComplete_beside]

end

/-- A machine is its Encoder's side beside the rest, with no trace of its own. -/
theorem beside_self (s : State) : beside s { s with events := [] } = s := by
  simp only [beside, List.append_nil]

/-- TRANSMIT writes the Encoder's side and the trace alone (R109, R110). -/
theorem runTransmit_eq_beside (mode : Mode) (fan : Fan) (temp : BitVec 16) (s : State) :
    runTransmit mode fan temp s = beside (runTransmit mode fan temp s) { s with events := [] } := by
  simp only [runTransmit_eq, beside, List.append_nil]

/-- TRANSMIT and a DECODE commute, but for the trace. -/
theorem runTransmit_runDecode (mode : Mode) (fan : Fan) (temp : BitVec 16) (s : State) :
    { runDecode (runTransmit mode fan temp s) with events := (runTransmit mode fan temp (runDecode s)).events } =
      runTransmit mode fan temp (runDecode s) := by
  have hkeeps := runDecode_keeps { s with events := [] }
  have hdecode : runDecode s = beside s (runDecode { s with events := [] }) := by
    rw [← runDecode_beside, beside_self]
  rw [runTransmit_eq_beside, runDecode_beside, hdecode]
  simp only [runTransmit_eq, beside, hkeeps.cfg, hkeeps.tp]

/-- Settles O58: each operation keeps the timing registers, so on a ready machine all four complete. -/
theorem transmitAndDecodeCommute : Obligations.TransmitAndDecodeCommute := by
  intro mode fan temp s hs
  have hsent : Ready (runTransmit mode fan temp s) := ready_of_timing (runTransmit_timing mode fan temp s) hs
  have hdecoded : Ready (runDecode s) := ready_of_timing (runDecode_keeps s).timing hs
  exact ⟨_, _, _, _, withTp_ready hs, exec_decode_ready hsent, exec_decode_ready hs, withTp_ready hdecoded,
    runTransmit_runDecode mode fan temp s⟩

end Sys2Proof.Machine
end

section
/-! PROOFS of the family 70_reset_and_hazards.md: reset and reception (R46, R200), and which operations complete on which timing
registers (R203, R207). -/

namespace Sys2Proof.Machine

/-- Settles O42: a silent host leaves nothing to fetch; a reset and a reception are what is fetched, and written out. -/
theorem stepOnHostEvents : Obligations.StepOnHostEvents := by
  refine ⟨fun s hsilent => ?_, fun s => ⟨_, rfl, rfl, rfl, rfl, fun r => ?_, rfl, rfl, rfl, rfl, rfl⟩, fun _ _ => rfl⟩
  · simp only [step, fetch, hsilent]
  · cases r <;> rfl

/-! ### Refusals -/

/-- What stands in the way of an operation is what it is refused for. -/
theorem withTp_refused {rs : List TpReg} {f : State → State} {s : State} {x : Refusal} (h : tpObstacle rs s = some x) :
    withTp rs f s = .refused x := by
  unfold withTp; rw [h]

/-- TRANSMIT, DECODE and EMIT are refused for what stands in the way of using all five registers. -/
theorem exec_refused_of_obstacle {s : State} {x : Refusal} (h : tpObstacle allTp s = some x) (mode : Mode) (fan : Fan)
    (temp : BitVec 16) (word : ProtocolWord) :
    exec (.transmit mode fan temp) s = .refused x ∧ exec .decode s = .refused x ∧ exec (.emit word) s = .refused x :=
  ⟨withTp_refused h, withTp_refused h, withTp_refused h⟩

/-- A register that may not be read, or reads as 0, stands in the way. -/
theorem exists_tpObstacle {r : TpReg} {s : State} (h : ¬(tpMayRead s r = true ∧ tpRead s r ≠ 0)) :
    ∃ x, tpObstacle allTp s = some x :=
  Option.ne_none_iff_exists'.1 fun hnone => h (tpObstacle_eq_none.1 hnone r (mem_allTp r))

/-- Where a register is not written and its use is refused, what stands in the way is one that is not written. -/
theorem tpObstacle_unwritten {r : TpReg} {s : State} (hcfg : s.cfg.unwritten = .refused)
    (hr : tpIsWritten s.tpWritten r = false) :
    ∃ q, tpIsWritten s.tpWritten q = false ∧ tpObstacle allTp s = some (.tpUnwritten q) := by
  have hread (q : TpReg) : tpMayRead s q = tpIsWritten s.tpWritten q := by simp [tpMayRead, hcfg]
  obtain ⟨x, hx⟩ := exists_tpObstacle (r := r) (s := s) (by simp [hread, hr])
  obtain ⟨q, -, rfl, hq⟩ | ⟨-, -, -, -, hall⟩ := tpObstacle_eq_some hx
  · exact ⟨q, hread q ▸ hq, hx⟩
  · have hwritten := hall r (mem_allTp r)
    simp [hread, hr] at hwritten

/-- Where every register may be read, what stands in the way is one that reads as 0. -/
theorem tpZero_of_tpObstacle {s : State} {x : Refusal} (h : tpObstacle allTp s = some x)
    (hread : ∀ q, tpMayRead s q = true) : ∃ q, x = .tpZero q ∧ tpRead s q = 0 := by
  obtain ⟨q, -, -, hq⟩ | ⟨q, -, rfl, hzero, -⟩ := tpObstacle_eq_some h
  · simp [hread q] at hq
  · exact ⟨q, rfl, hzero⟩

/-! ### The writes that make a machine ready (R203) -/

/-- The register was written since reset, and with a positive value. -/
def ReadyAt (s : State) (r : TpReg) : Prop := tpIsWritten s.tpWritten r = true ∧ tpGet s.tp r ≠ 0

theorem readyAt_writeTp_same (r : TpReg) {v : Dur} (hv : v ≠ 0) (s : State) : ReadyAt (writeTp r v s) r :=
  ⟨by simp, by simpa using hv⟩

/-- A write of a positive value leaves no register worse. -/
theorem ReadyAt.writeTp {s : State} {q : TpReg} (h : ReadyAt s q) (r : TpReg) {v : Dur} (hv : v ≠ 0) :
    ReadyAt (writeTp r v s) q := by
  by_cases hqr : q = r
  · subst hqr; exact readyAt_writeTp_same q hv s
  · obtain ⟨hmark, hget⟩ := h
    exact ⟨by simp [hmark], by rwa [writeTp_tp, tpGet_tpSet_other _ _ hqr]⟩

/-- Writes of positive values complete, and leave the registers they reach positive, and those that were so before. -/
theorem execAll_wrtp (writes : List (TpReg × Dur)) (hpos : ∀ w ∈ writes, w.2 ≠ 0) (s : State) :
    ∃ t, execAll (writes.map fun w => .wrtp (tpIndex w.1) w.2) s = .next t ∧
      ∀ r, r ∈ writes.map (·.1) ∨ ReadyAt s r → ReadyAt t r := by
  induction writes generalizing s with
  | nil => exact ⟨s, rfl, fun r hr => hr.resolve_left (by simp)⟩
  | cons w writes ih =>
    obtain ⟨hw, hpos⟩ := List.forall_mem_cons.1 hpos
    obtain ⟨t, hexec, ht⟩ := ih hpos (writeTp w.1 w.2 s)
    refine ⟨t, ?_, fun r hr => ht r ?_⟩
    · rw [List.map_cons, execAll, exec_wrtp]; exact hexec
    · rw [List.map_cons, List.mem_cons] at hr
      obtain (rfl | hlater) | hbefore := hr
      · exact .inr (readyAt_writeTp_same _ hw s)
      · exact .inl hlater
      · exact .inr (hbefore.writeTp _ hw)

/-- Settles O44: the register in the way is one that is not written; writes of all five make the machine ready one by one. -/
theorem unwrittenProfileRefused : Obligations.UnwrittenProfileRefused := by
  refine ⟨fun s mode fan temp word r hcfg hr => ⟨exec_rdtp_refused hr hcfg, ?_⟩, fun s => ⟨rfl, fun r => ⟨fun v => ?_, ?_⟩⟩,
    fun s writes hall hpos => ?_⟩
  · obtain ⟨q, hq, hobstacle⟩ := tpObstacle_unwritten hcfg hr
    exact ⟨q, hq, exec_refused_of_obstacle hobstacle mode fan temp word⟩
  · exact ⟨_, exec_wrtp r v s⟩
  · exact fun hr => ⟨_, exec_rdtp_written hr⟩
  · obtain ⟨t, hexec, ht⟩ := execAll_wrtp writes hpos s
    exact ⟨t, hexec, fun r _ => ht r (.inl (hall r))⟩

/-! ### Registers that read as 0 (R207) -/

/-- RDTP of a register that may be read puts what it reads as on tp_rdata. -/
theorem exec_rdtp_mayRead {r : TpReg} {s : State} (h : tpMayRead s r = true) :
    ∃ t, exec (.rdtp (tpIndex r)) s = .next t ∧ t.tpRdata = tpRead s r := by
  cases hr : tpIsWritten s.tpWritten r with
  | true => exact ⟨_, exec_rdtp_written hr, (tpRead_written hr).symm⟩
  | false => exact ⟨_, exec_rdtp_unspecified hr ((tpMayRead_unwritten hr).1 h), rfl⟩

/-- Settles O45: a register that reads as 0 stands in the way of all three, itself or one found before it. -/
theorem zeroDurationRefused : Obligations.ZeroDurationRefused := by
  refine ⟨fun s mode fan temp word r _ hzero => ?_, fun _ _ => exec_rdtp_mayRead, fun _ _ => tpRead_written⟩
  obtain ⟨x, hx⟩ := exists_tpObstacle (r := r) (s := s) fun h => h.2 hzero
  obtain ⟨htransmit, hdecode, hemit⟩ := exec_refused_of_obstacle hx mode fan temp word
  exact ⟨x, htransmit, hdecode, hemit, tpZero_of_tpObstacle hx⟩

/-! ### Every other operation completes (R106, R130, R187) -/

/-- An index of at most 4 selects a register (R41). -/
theorem exists_tpIndex {i : BitVec 3} (h : i.toNat ≤ 4) : ∃ r, i = tpIndex r := by
  have hsome : tpOfIndex i ≠ none := fun hnone => absurd (tpOfIndex_eq_none.1 hnone) (not_le.2 (Nat.lt_succ_of_le h))
  obtain ⟨r, hr⟩ := Option.ne_none_iff_exists'.1 hsome
  exact ⟨r, tpOfIndex_eq_some.1 hr⟩

/-- On a usable machine an operation on any of the timing registers completes. -/
theorem withTp_completes {s : State} (h : Usable s) (rs : List TpReg) (f : State → State) :
    ∃ t, withTp rs f s = .next t :=
  ⟨_, withTp_usable fun r _ => h r (mem_allTp r)⟩

/-- What is idle where it does not run completes, if it does where it runs. -/
theorem ite_next_completes {c : Prop} [Decidable c] {s : State} {o : Host.Outcome State Fault Refusal}
    (h : ∃ t, o = .next t) : ∃ t, (if c then o else .next s) = .next t := by
  split
  · exact h
  · exact ⟨s, rfl⟩

/-- Settles O46: the operations that use timing registers find them usable, and the others look at none. -/
theorem everyOperationCompletes : Obligations.EveryOperationCompletes := by
  refine ⟨fun i s hs hwf hreserved => ?_, fun _ => usable_of_ready⟩
  cases i with
  | nop | encode | validate | unpack | protocolWord | frameOnAuto | frameOnCool | frameOnDry | frameOnFan | frameOnHeat
  | frameOnRsv5 | frameOnRsv6 | frameOnRsv7 | frameOff | frameForeign => exact ⟨_, rfl⟩
  | reservedCmd5 | reservedCmd6 | reservedCmd7 => cases hreserved
  | wrtp i v =>
    obtain ⟨r, rfl⟩ := exists_tpIndex (of_decide_eq_true hwf)
    exact ⟨_, exec_wrtp r v s⟩
  | rdtp i =>
    obtain ⟨r, rfl⟩ := exists_tpIndex (of_decide_eq_true hwf)
    obtain ⟨t, hexec, -⟩ := exec_rdtp_mayRead (hs r (mem_allTp r)).1
    exact ⟨t, hexec⟩
  | transmit | decode | emit => exact withTp_completes hs ..
  | symHeader d =>
    cases d with
    | tx => exact withTp_completes hs ..
    | rx => exact withTp_completes hs ..
  | symBit1 d | symBit0 d =>
    cases d with
    | tx => exact withTp_completes hs ..
    | rx => exact ite_next_completes (withTp_completes hs ..)
  | symTrail d =>
    cases d with
    | tx => exact withTp_completes hs ..
    | rx => exact ⟨s, rfl⟩

end Sys2Proof.Machine
end

section
/-! PROOFS of the family 70_reset_and_hazards.md: a zero-space taken for the one-space (R133, R206). -/

namespace Sys2Proof.Machine

/-- Where the one-space matches the zero-space too, the pairs of any bits are read as ones, whatever follows them. -/
theorem readBits_bitPulses_ones {t : Tolerance} {p : TimingProfile} (hrefl : MatchRefl t)
    (hinsep : toleranceMatches t p.os p.zs = true) (bits : List Bool) (rest : List Pulse) :
    readBits t p bits.length (bits.map (bitPulse p) ++ rest) = List.replicate bits.length true := by
  have hone (b : Bool) : pulseMatches t p.bm p.os (bitPulse p b) = true := by
    cases b with
    | true => exact pulseMatches_self hrefl ..
    | false => simp [pulseMatches, bitPulse, hrefl p.bm, hinsep]
  induction bits with
  | nil => rfl
  | cons b bits ih =>
    rw [List.length_cons, List.map_cons, List.cons_append, readBits, ih, if_pos (hone b), List.replicate_succ]

/-- Settles O36: 43 ones are read, and their word has another signature field. -/
theorem inseparableSpacesReadOnes : Obligations.InseparableSpacesReadOnes := by
  intro word rest s hs hrefl hinsep hbuf
  have hread : readBits s.cfg.tolerance s.tp 43 ((wordBits word).map (bitPulse s.tp) ++ rest) =
      List.replicate 43 true := by
    rw [← wordBits_length word, readBits_bitPulses_ones hrefl hinsep]
  have hones : wordOfBits (List.replicate 43 true) = BitVec.allOnes 43 := by
    refine BitVec.eq_of_getLsbD_eq fun i hi => ?_
    rw [wordOfBits_getLsbD _ i hi, List.getD_replicate _ hi, BitVec.getLsbD_allOnes, decide_eq_true hi]
  have hcons : s.rx.buf = headerPulse s.tp :: ((wordBits word).map (bitPulse s.tp) ++ rest) := hbuf
  obtain ⟨hrun, hnb, hacc⟩ := runDecode_complete hcons (pulseMatches_self hrefl _ _) (by rw [hread, List.length_replicate])
  rw [hread, hones] at hacc
  have hinvalid : ¬validateWord (bitLoop 43 (afterHeader s)).acc = true := by
    rw [hacc]; decide
  refine ⟨_, exec_decode_ready hs, ?_⟩
  rw [hrun, finishFrame_eq, if_neg hinvalid]
  exact ⟨hacc, rfl, hnb⟩

end Sys2Proof.Machine
end

section
/-! PROOFS of the family 70_reset_and_hazards.md: the length of a frame, and the number of 1 bits of an encoded word (R212). -/

namespace Sys2Proof.Machine

/-! ### The length of a frame -/

/-- The microseconds a pair lasts. -/
def pulseLength (q : Pulse) : Nat := q.mark.toNat + q.space.toNat

/-- A frame lasts as long as its pairs and its trailing mark. -/
theorem frameLength_pulseSegments (ps : List Pulse) (d : Dur) :
    frameLength (ps.flatMap pulseSegments ++ [.mark d]) = (ps.map pulseLength).sum + d.toNat := by
  induction ps with
  | nil => simp [frameLength, segmentLength]
  | cons q ps ih =>
    simp only [frameLength, List.flatMap_cons, pulseSegments, List.cons_append, List.nil_append, List.map_cons,
      List.sum_cons, segmentLength, pulseLength] at ih ⊢
    rw [ih]
    omega

/-- The pairs of bits: a bit mark each, and their spaces. -/
theorem sum_pulseLength_bitPulses (p : TimingProfile) (bits : List Bool) :
    ((bits.map (bitPulse p)).map pulseLength).sum =
      bits.length * p.bm.toNat + bits.count true * p.os.toNat + bits.count false * p.zs.toNat := by
  induction bits with
  | nil => simp
  | cons b bits ih =>
    simp only [List.map_cons, List.sum_cons, ih, List.length_cons, List.count_cons]
    cases b <;> simp [pulseLength, bitPulse] <;> ring

/-- The frame of a word lasts as the rule says (R212). -/
theorem frameLength_framePulses (p : TimingProfile) (word : ProtocolWord) :
    frameLength ((framePulses p word).flatMap pulseSegments ++ [.mark p.bm]) =
      p.hm.toNat + p.hs.toNat + 43 * p.bm.toNat + onesOf word * p.os.toNat + (43 - onesOf word) * p.zs.toNat +
        p.bm.toNat := by
  have hzeros : (wordBits word).count false = 43 - onesOf word := by
    have htotal := List.count_not_add_count (wordBits word) true
    rw [wordBits_length] at htotal
    exact Nat.eq_sub_of_add_eq htotal
  rw [frameLength_pulseSegments, framePulses, List.map_cons, List.sum_cons, sum_pulseLength_bitPulses, hzeros,
    wordBits_length, onesOf]
  simp only [pulseLength, headerPulse]
  omega

/-! ### The number of 1 bits -/

/-- How many of the first `n` bits are 1. -/
def onesBelow (n : Nat) (bit : Nat → Bool) : Nat := ((List.range n).map bit).count true

theorem onesBelow_le (n : Nat) (bit : Nat → Bool) : onesBelow n bit ≤ n :=
  List.count_le_length.trans_eq (by simp)

theorem onesBelow_add (m n : Nat) (bit : Nat → Bool) :
    onesBelow (m + n) bit = onesBelow m bit + onesBelow n fun i => bit (m + i) := by
  rw [onesBelow, List.range_add, List.map_append, List.count_append, List.map_map]
  rfl

/-- A field holds the 1 bits of its place in the word. -/
theorem onesBelow_extractLsb' (word : ProtocolWord) (k n : Nat) :
    (onesBelow n fun i => word.getLsbD (k + i)) = onesBelow n (word.extractLsb' k n).getLsbD := by
  refine congrArg (List.count true) (List.map_congr_left fun i hi => ?_)
  simp [List.mem_range.1 hi]

/-- Bits 42:12 of a word the Encoder writes hold the six 1 bits of the signature (R60, R64). -/
theorem onesOf_eq_add_low {word : ProtocolWord} (hsig : sigOf word = Config.sigField) (hz : uncheckedOf word = 0) :
    onesOf word = 6 + onesBelow 12 word.getLsbD := by
  have hunchecked : (onesBelow 16 fun i => word.getLsbD (12 + i)) = 0 := by
    rw [onesBelow_extractLsb', show word.extractLsb' 12 16 = 0 from hz]; decide
  have hsignature : (onesBelow 15 fun i => word.getLsbD (28 + i)) = 6 := by
    rw [onesBelow_extractLsb', show word.extractLsb' 28 15 = Config.sigField from hsig]; decide
  calc onesOf word = onesBelow (12 + 16 + 15) word.getLsbD := rfl
    _ = onesBelow 12 word.getLsbD + 0 + 6 := by rw [onesBelow_add, onesBelow_add, hunchecked, hsignature]
    _ = 6 + onesBelow 12 word.getLsbD := Nat.add_comm ..

/-- Bits 11:0 are those of the other four fields (R60). -/
theorem onesBelow_twelve (word : ProtocolWord) : onesBelow 12 word.getLsbD =
    onesBelow 3 (modeCodeOf word).getLsbD + onesBelow 1 (flagOf word).getLsbD + onesBelow 4 (fanCodeOf word).getLsbD +
      onesBelow 4 (toffOf word).getLsbD := by
  have hmode : onesBelow 3 word.getLsbD = onesBelow 3 (modeCodeOf word).getLsbD := by
    rw [modeCodeOf, ← onesBelow_extractLsb']; simp only [Nat.zero_add]
  calc onesBelow 12 word.getLsbD = onesBelow (3 + 1 + 4 + 4) word.getLsbD := rfl
    _ = _ := by
      rw [onesBelow_add, onesBelow_add, onesBelow_add, hmode, onesBelow_extractLsb', onesBelow_extractLsb',
        onesBelow_extractLsb']
      rfl

/-- An offset of at most 14 has a 0 among its four bits. -/
theorem onesBelow_toff_le {toff : BitVec 4} (h : toff.toNat ≤ 14) : onesBelow 4 toff.getLsbD ≤ 3 := by
  revert toff; decide

/-- A code FanMap writes has one 1 bit or two (R105). -/
theorem onesBelow_fanMap (fan : Fan) : 1 ≤ onesBelow 4 (fanMap fan).getLsbD ∧ onesBelow 4 (fanMap fan).getLsbD ≤ 2 := by
  cases fan <;> decide

/-- Flag and mode code that ModeMap writes have at most three 1 bits: no mapped code is 7, and flag 0 goes with any (R102). -/
theorem onesBelow_modeMap_le (mode : Mode) (mb : ModeCode) :
    onesBelow 1 (modeMap mode mb).1.getLsbD + onesBelow 3 (modeMap mode mb).2.getLsbD ≤ 3 := by
  revert mb
  cases mode <;> decide

/-- The 1 bits of an encoded word outside its signature (R212). -/
theorem onesBelow_encodeState (tie : RoundTie) (mode : Mode) (fan : Fan) (temp : BitVec 16) (mb : ModeCode) :
    1 ≤ onesBelow 12 (encodeState tie mode fan temp mb).1.getLsbD ∧
      onesBelow 12 (encodeState tie mode fan temp mb).1.getLsbD ≤ 8 := by
  rw [onesBelow_twelve, toffOf_encodeState, fanCodeOf_encodeState, flagOf_encodeState, modeCodeOf_encodeState]
  have htoff := onesBelow_toff_le (tempOffset_le tie temp)
  obtain ⟨hfanmin, hfanmax⟩ := onesBelow_fanMap fan
  have hmode := onesBelow_modeMap_le mode mb
  omega

/-- Settles O17: the frame is the one of ENCODE's word, whose signature holds six 1 bits. -/
theorem frameLengthFormula : Obligations.FrameLengthFormula := by
  intro mode fan temp s hs
  refine ⟨runTransmit mode fan temp s, withTp_ready hs, ?_⟩
  have hframe : (runTransmit mode fan temp s).tx.frame =
      (framePulses s.tp (runTransmit mode fan temp s).w).flatMap pulseSegments ++ [.mark s.tp.bm] := by
    rw [runTransmit_eq]
  rw [hframe, frameLength_framePulses, runTransmit_w]
  have hones := onesOf_eq_add_low (sigOf_encodeState s.cfg.tie mode fan temp s.mb) (uncheckedOf_encodeState ..)
  obtain ⟨hmin, hmax⟩ := onesBelow_encodeState s.cfg.tie mode fan temp s.mb
  exact ⟨rfl, hones, by omega, by omega⟩

end Sys2Proof.Machine
end

section
/-! PROOFS of the family 70_reset_and_hazards.md: the counts of calls and Publishes (R213). -/

namespace Sys2Proof.Machine

/-! ### A TRANSMIT -/

/-- Among the 44 pairs of a frame a predicate that does not look at durations counts all or none; the trailing mark is
beside them. -/
theorem countP_emitCalls {e : Event → Bool} {b : Bool} (hpulse : ∀ m d, e (.tx (.pulse m d)) = b) (p : TimingProfile)
    (word : ProtocolWord) :
    ((emitCalls p word).map Event.tx).countP e = (if b then 44 else 0) + [Event.tx (.mark p.bm)].countP e := by
  have hpairs : e ∘ Event.tx ∘ pulseCall = fun _ => b := funext fun q => hpulse q.mark q.space
  rw [emitCalls, List.map_append, List.countP_append, List.map_map, List.countP_map, hpairs]
  congr 1
  cases b <;> simp

/-- What a TRANSMIT adds to the trace (R109, R110). -/
def transmitEvents (mode : Mode) (fan : Fan) (temp : BitVec 16) (s : State) : List Event :=
  [.tx (.begin s.cfg.carrierHz)] ++ (emitCalls s.tp (encodeState s.cfg.tie mode fan temp s.mb).1).map Event.tx ++
    [.tx .send, .publishSent mode fan temp 0]

theorem runTransmit_events (mode : Mode) (fan : Fan) (temp : BitVec 16) (s : State) :
    (runTransmit mode fan temp s).events = s.events ++ transmitEvents mode fan temp s := by
  rw [runTransmit_eq]; simp only [transmitEvents, List.append_assoc]

/-- What a predicate counts in it: the 44 pairs, all or none, and the other four. -/
theorem countP_transmitEvents {e : Event → Bool} {b : Bool} (hpulse : ∀ m d, e (.tx (.pulse m d)) = b) (mode : Mode)
    (fan : Fan) (temp : BitVec 16) (s : State) :
    (transmitEvents mode fan temp s).countP e = (if b then 44 else 0) +
      [Event.tx (.begin s.cfg.carrierHz), .tx (.mark s.tp.bm), .tx .send, .publishSent mode fan temp 0].countP e := by
  rw [transmitEvents, List.countP_append, List.countP_append, countP_emitCalls hpulse]
  simp only [List.countP_cons, List.countP_nil]
  omega

/-! ### The calls of a bit loop (R133) -/

/-- From `s` to `t` the trace grows, by `n` calls of RxMatch among others. -/
def Matches (n : Nat) (s t : State) : Prop := ∃ es, t.events = s.events ++ es ∧ es.countP isRxMatch = n

theorem Matches.of_events_eq {s t : State} (h : t.events = s.events) : Matches 0 s t :=
  ⟨[], by rw [h, List.append_nil], rfl⟩

theorem Matches.trans {m n : Nat} {s t u : State} (h : Matches m s t) (k : Matches n t u) : Matches (m + n) s u := by
  obtain ⟨es, hes, hm⟩ := h
  obtain ⟨fs, hfs, hn⟩ := k
  exact ⟨es ++ fs, by rw [hfs, hes, List.append_assoc], by rw [List.countP_append, hm, hn]⟩

theorem matches_rxAfter (em es : Dur) (b : Bool) (s : State) : Matches 1 s (rxAfter em es b s) :=
  ⟨[.rxMatch em es b], rfl, rfl⟩

/-- The calls of a bit loop of at most `n` bits that read `bits`: one for a 1, two for a 0, and two for the pair that is
no bit. -/
def callsOfBits (n : Nat) (bits : List Bool) : Nat := bits.length + bits.count false + if bits.length < n then 2 else 0

theorem callsOfBits_le {n : Nat} {bits : List Bool} (h : bits.length ≤ n) : callsOfBits n bits ≤ 2 * n := by
  have hzeros : bits.count false ≤ bits.length := List.count_le_length
  unfold callsOfBits
  split <;> omega

theorem callsOfBits_cons (n : Nat) (b : Bool) (bits : List Bool) :
    callsOfBits (n + 1) (b :: bits) = (if b then 1 else 2) + callsOfBits n bits := by
  simp only [callsOfBits, List.length_cons, List.count_cons, Nat.add_lt_add_iff_right]
  cases b <;> simp <;> omega

/-- A matched bit is followed by the next one, until the 43rd. -/
theorem shiftIn_continues (b : Bool) {s : State} {n : Nat} (hn : s.nb.toNat + (n + 1) = 43) :
    (shiftIn b s).nb.toNat + n = 43 ∧ (shiftIn b s).fsm = if n = 0 then .frameComplete else .expectBit := by
  have hnb : (s.nb + 1).toNat = s.nb.toNat + 1 := nb_succ (by omega)
  have hlast : s.nb + 1 = 43 ↔ n = 0 := by
    rw [← BitVec.toNat_inj, hnb, show BitVec.toNat (43 : BitVec 6) = 43 from rfl]; omega
  exact ⟨by rw [shiftIn_nb, hnb]; omega, by rw [shiftIn_fsm]; simp only [hlast]⟩

/-- A bit index where no pair is left: both tries fail. -/
theorem bitStep_exhausted {s : State} (h : s.rx.buf.drop s.rx.cur = []) :
    bitStep s = raise .truncatedFrame (rxAfter s.tp.bm s.tp.zs false (rxAfter s.tp.bm s.tp.os false s)) := by
  have hnone (em es : Dur) : rxAnswer s.cfg.tolerance em es s.rx = false := rxAnswer_nil h
  rw [bitStep_eq, if_neg (by simp [hnone]), tryZero_eq]
  exact if_neg (by simp [hnone])

/-- A bit index on a pair: the one-space try, and where it fails the zero-space try on the same pair. -/
theorem bitStep_pair {s : State} {q : Pulse} {qs : List Pulse} (h : s.rx.buf.drop s.rx.cur = q :: qs) :
    bitStep s =
      if pulseMatches s.cfg.tolerance s.tp.bm s.tp.os q then shiftIn true (rxAfter s.tp.bm s.tp.os true s)
      else if pulseMatches s.cfg.tolerance s.tp.bm s.tp.zs q then
        shiftIn false (rxAfter s.tp.bm s.tp.zs true (rxAfter s.tp.bm s.tp.os false s))
      else raise .truncatedFrame (rxAfter s.tp.bm s.tp.zs false (rxAfter s.tp.bm s.tp.os false s)) := by
  rw [bitStep_eq, rxAnswer_cons h, tryZero_eq]
  simp [rxAnswer_cons h]

/-- The bit loop's calls are those of the bits it reads (R133, R213). -/
theorem matches_bitLoop (n : Nat) (s : State) (hn : s.nb.toNat + n = 43)
    (hf : s.fsm = if n = 0 then .frameComplete else .expectBit) :
    Matches (callsOfBits n (readBits s.cfg.tolerance s.tp n (s.rx.buf.drop s.rx.cur))) s (bitLoop n s) := by
  induction n generalizing s with
  | zero => exact .of_events_eq rfl
  | succ n ih =>
    have hone (b : Bool) := matches_rxAfter s.tp.bm s.tp.os b s
    have hzero (b : Bool) := (hone false).trans (matches_rxAfter s.tp.bm s.tp.zs b (rxAfter s.tp.bm s.tp.os false s))
    rw [bitLoop, if_pos (by simpa using hf)]
    cases hq : s.rx.buf.drop s.rx.cur with
    | nil =>
      rw [bitStep_exhausted hq, bitLoop_idle _ (by simp)]
      exact hzero false
    | cons q qs =>
      have hdrop : s.rx.buf.drop (s.rx.cur + 1) = qs := by
        rw [← List.drop_drop, hq]; rfl
      have hcontinue (b : Bool) (u : State) (hu : u.nb = s.nb) := shiftIn_continues b (s := u) (n := n) (hu ▸ hn)
      rw [bitStep_pair hq, readBits]
      split
      next =>
        obtain ⟨hn', hf'⟩ := hcontinue true (rxAfter s.tp.bm s.tp.os true s) rfl
        have hrest := ih _ hn' hf'
        rw [callsOfBits_cons, ← hdrop]
        exact (hone true).trans hrest
      next =>
        split
        next =>
          obtain ⟨hn', hf'⟩ := hcontinue false (rxAfter s.tp.bm s.tp.zs true (rxAfter s.tp.bm s.tp.os false s)) rfl
          have hrest := ih _ hn' hf'
          rw [callsOfBits_cons, ← hdrop]
          exact (hzero true).trans hrest
        next =>
          rw [bitLoop_idle _ (by simp)]
          exact hzero false

/-! ### A DECODE -/

/-- From the start of a DECODE to the end of its bit loop: the header's call and those of the bits. -/
theorem matches_bitLoop_afterHeader {s : State} {q : Pulse} {qs : List Pulse} (hbuf : s.rx.buf = q :: qs) :
    Matches (1 + callsOfBits 43 (readBits s.cfg.tolerance s.tp 43 qs)) s (bitLoop 43 (afterHeader s)) := by
  have hloop := matches_bitLoop 43 (afterHeader s) rfl rfl
  have hqs : (afterHeader s).rx.buf.drop (afterHeader s).rx.cur = qs := congrArg (List.drop 1) hbuf
  rw [hqs] at hloop
  exact (matches_rxAfter s.tp.hm s.tp.hs true (startDecode s)).trans hloop

theorem matches_finishFrame (s : State) : Matches 0 s (finishFrame s) := by
  rw [finishFrame_eq]
  split
  · exact ⟨[.publishDecoded (unpackWord s.acc)], rfl, rfl⟩
  · exact .of_events_eq rfl

/-- Frame-Complete is no place for a HeaderMismatch, and leaves ACC. -/
theorem finishFrame_res_acc (s : State) : (finishFrame s).res ≠ .headerMismatch ∧ (finishFrame s).acc = s.acc := by
  rw [finishFrame_eq]
  split
  · exact ⟨nofun, rfl⟩
  · exact ⟨nofun, rfl⟩

/-- The bits of the word of 43 bits are these bits. -/
theorem wordBits_wordOfBits {bits : List Bool} (h : bits.length = 43) : wordBits (wordOfBits bits) = bits := by
  refine List.ext_getElem (by rw [wordBits_length, h]) fun i hi hi' => ?_
  rw [wordBits_length] at hi
  simp [wordBits, wordOfBits_getLsbD _ i hi, List.getD_eq_getElem?_getD, hi']

/-- A number of calls that R213 admits for a DECODE that ended in `t`. -/
structure DecodeCalls (n : Nat) (t : State) : Prop where
  pos : 1 ≤ n
  le : n ≤ 87
  headerMismatch : t.res = .headerMismatch → n = 1
  ok : t.res = .ok → n = 1 + 43 + (wordBits t.acc).count false

/-- A DECODE makes one call on the header, and where that matched those of the bits it reads. -/
theorem runDecode_matches (s : State) : ∃ n, Matches n s (runDecode s) ∧ DecodeCalls n (runDecode s) := by
  cases hanswer : rxAnswer s.cfg.tolerance s.tp.hm s.tp.hs { s.rx with cur := 0 } with
  | false =>
    rw [runDecode_headerMismatch hanswer]
    exact ⟨1, matches_rxAfter s.tp.hm s.tp.hs false (startDecode s), le_rfl, by omega, fun _ => rfl, nofun⟩
  | true =>
    obtain ⟨q, qs, hbuf⟩ := List.exists_cons_of_length_pos (rxAnswer_true hanswer)
    have hq : pulseMatches s.cfg.tolerance s.tp.hm s.tp.hs q = true :=
      (rxAnswer_cons (r := { s.rx with cur := 0 }) hbuf).symm.trans hanswer
    have hle := callsOfBits_le (readBits_length_le s.cfg.tolerance s.tp 43 qs)
    have hloop := matches_bitLoop_afterHeader hbuf
    obtain hbits | hbits := (readBits_length_le s.cfg.tolerance s.tp 43 qs).lt_or_eq
    · obtain ⟨-, hres⟩ := (bitLoop_afterHeader hbuf).truncated hbits
      rw [runDecode_truncated hbuf hq hbits]
      exact ⟨_, hloop, Nat.le_add_right .., by omega, by simp [hres], by simp [hres]⟩
    · obtain ⟨hrun, -, hacc⟩ := runDecode_complete hbuf hq hbits
      obtain ⟨hres, hkeep⟩ := finishFrame_res_acc (bitLoop 43 (afterHeader s))
      rw [hrun]
      refine ⟨_, hloop.trans (matches_finishFrame _), by omega, by omega, fun h => absurd h hres, fun _ => ?_⟩
      rw [hkeep, hacc, wordBits_wordOfBits hbits, callsOfBits, hbits]
      simp only [lt_irrefl, if_false]
      omega

/-- Settles O25: a TRANSMIT's events are written out; a DECODE's calls are those of its header and its bits. -/
theorem callCounts : Obligations.CallCounts := by
  refine ⟨fun mode fan temp s hs => ?_, fun s hs => ?_⟩
  · refine ⟨_, transmitEvents mode fan temp s, withTp_ready hs, runTransmit_events .., ?_, ?_⟩
    · rw [← List.countP_true, countP_transmitEvents (b := true) fun _ _ => rfl]; rfl
    · exact ⟨countP_transmitEvents (b := false) (fun _ _ => rfl) .., countP_transmitEvents (b := true) (fun _ _ => rfl) ..,
        countP_transmitEvents (b := false) (fun _ _ => rfl) .., countP_transmitEvents (b := false) (fun _ _ => rfl) ..,
        countP_transmitEvents (b := false) (fun _ _ => rfl) ..⟩
  · obtain ⟨n, ⟨es, hevents, hcalls⟩, hpos, hle, hheader, hok⟩ := runDecode_matches s
    obtain ⟨fs, hevents', hpublishes⟩ := runDecode_publishes s
    obtain rfl : es = fs := List.append_cancel_left (hevents.symm.trans hevents')
    have honce : publishesOfResult (runDecode s).res ≤ 1 := by
      unfold publishesOfResult; split <;> omega
    rw [← hcalls] at hpos hle hheader hok
    exact ⟨_, es, exec_decode_ready hs, hevents, hpos, hle, hpublishes ▸ honce, hheader, hok⟩

end Sys2Proof.Machine
end
